-- ==== Sys2Proof/Word.lean ====
section
/-! DEFINITION. The two word types of the block (00_scope.md R9): a byte of 8 bits and a word16 of 16 bits.
Lengths, indices and counts are natural numbers and never wrap (R9), so they are `Nat`. -/

namespace Sys2Proof

/-- R9: "A byte is 8 bits, value 0 to 255." -/
abbrev Byte := BitVec 8

/-- R9: "A word16 is 16 bits, value 0 to 65535." -/
abbrev Word16 := BitVec 16

end Sys2Proof
end

