-- ==== Sys2Proof/Config.lean ====
section
/-! DEFINITION. What is fixed before reset: the document's constants (00_scope.md R7), the one open parameter
that a rule reads (`CAP`, R8), and the free values that stand wherever the spec says "any value"
(93_implementation_defined.md U2, U3, U7). A free value has no body: nothing can be proved of it. -/

namespace Sys2Proof

/-- R7 `BOUNDARY`: first and last byte of a frame. -/
def BOUNDARY : Byte := 0x7E
/-- R7 `ESC`: the escape marker. -/
def ESC : Byte := 0x7D
/-- R7 `MASK`: XOR mask applied to an escaped value. -/
def MASK : Byte := 0x20
/-- R7 `SEED`: initial value of the checksum accumulator. -/
def SEED : Word16 := 0xFFFF
/-- R7 `POLY`: the reflected generator polynomial of the table. -/
def POLY : Word16 := 0x8408
/-- R7 `MIN_FRAME`: minimum (unescaped) length accepted by the decoder. -/
def MIN_FRAME : Nat := 4

/-- R8, R21: the configuration, fixed before reset and never changed. `cap` is the parameter `CAP`, the capacity in
bytes of IBUF and of OBUF: a natural number, or `none` for "unbounded". `REGMAP` is read by no rule and `N_INST` is
the length of `Machine.System` (log entries 9 and 10). -/
structure Config where
  cap : Option Nat
  deriving DecidableEq, Repr

/-- U3: what a host read of OP answers while OP has never been written. -/
opaque Config.freeOp : Nat → BitVec 3
/-- U3: what a host read of STATUS answers while DONE = 0. -/
opaque Config.freeStatus : Nat → BitVec 2
/-- U3: what a host read of OLEN answers while DONE = 0. -/
opaque Config.freeOlen : Nat → Nat
/-- U2, U3: what a host read of an OBUF byte answers where the spec gives the byte no value. -/
opaque Config.freeByte : Nat → Byte
/-- U7: what `crc` holds between operations. -/
opaque Config.freeCrc : Nat → Word16
/-- U7: what `cur` holds between operations. -/
opaque Config.freeCur : Nat → Nat
/-- U7: what `wr` holds between operations. -/
opaque Config.freeWr : Nat → Nat
/-- U7: what `need` holds between operations. -/
opaque Config.freeNeed : Nat → Nat

end Sys2Proof
end

