-- ==== Sys2Proof/Syntax.lean ====
section
/-! DEFINITION. The rows of spec/opcode_table.json, one constructor each (30_encoding.md R94). The table has three
formats: five commands read from register OP (format CMD, R81), four result codes read from register STATUS (format
RSP, R85) and three wire symbols read from the byte stream (format WIRE, R91). -/

namespace Sys2Proof

/-- R94: the three formats of the table, each read from a place of its own (log entry 2). -/
inductive Format
  | cmd
  | rsp
  | wire
  deriving DecidableEq, Repr

/-- One constructor per row of the opcode table. A command has no field: its operand is the input
`IBUF[0..ILEN)` (R80). -/
inductive Instr
  /-- R160, `op = 0`: payload to frame. -/
  | encode
  /-- R168, `op = 1`: frame to payload. -/
  | decode
  /-- R134, `op = 2`: any bytes to escaped bytes. -/
  | escape
  /-- R147, `op = 3`: any bytes to unescaped bytes. -/
  | unescape
  /-- R117, `op = 4`: any bytes to the two checksum bytes. -/
  | checksum
  /-- R183, `status = 0`: the operation completes with its output. -/
  | ok
  /-- R184, `status = 1`: DECODE completes with a payload that failed verification. -/
  | checksumMismatch
  /-- R185, `status = 2`: the operation completes with no output. -/
  | malformedFrame
  /-- R186, `status = 3`: the operation completes with no output. -/
  | allocationFailure
  /-- R91: the one-byte symbol 0x7E. -/
  | boundary
  /-- R89, R91: the two-byte symbol 0x7D, `v`. -/
  | escpair (v : Byte)
  /-- R91: any byte but 0x7E and 0x7D, standing for itself. -/
  | data (d : Byte)
  deriving DecidableEq, Repr

/-- R94: the format of a row. -/
def Instr.format : Instr → Format
  | .encode | .decode | .escape | .unescape | .checksum => .cmd
  | .ok | .checksumMismatch | .malformedFrame | .allocationFailure => .rsp
  | .boundary | .escpair _ | .data _ => .wire

end Sys2Proof
end

