-- ==== Sys2Proof/WellFormed.lean ====
section
/-! DEFINITION. Which terms of `Instr` stand for a row of the table: the DATA row excludes 0x7E and 0x7D (R91, R94);
every other row admits every value of its fields (R89: any second byte is accepted). -/

namespace Sys2Proof

def Instr.wellFormed : Instr → Bool
  | .encode | .decode | .escape | .unescape | .checksum => true
  | .ok | .checksumMismatch | .malformedFrame | .allocationFailure => true
  | .boundary => true
  | .escpair _ => true
  | .data d => d != BOUNDARY && d != ESC

end Sys2Proof
end

