-- ==== Sys2Proof/Decode.lean ====
section
/-! DEFINITION. Decoding, total on any bytes and rejecting by name, then the encoder written from the same tables
(30_encoding.md R81, R85, R91). Where a pattern is read from decides its format: OP, STATUS, or the wire. -/

namespace Sys2Proof

/-- Why a decoder rejects. -/
inductive DecodeError
  /-- There is no byte to decode. -/
  | noBytes
  /-- The byte does not fit the 3-bit register OP (R80). -/
  | notThreeBits (b : Byte)
  /-- R84: `op` is 5, 6 or 7. -/
  | reservedOpcode (op : BitVec 3)
  /-- The byte does not fit the 2-bit register STATUS (R82). -/
  | notTwoBits (b : Byte)
  /-- R91, R142: an escape marker with no second byte. -/
  | truncatedEscape
  deriving DecidableEq, Repr

/-- R81: the operation codes. -/
def decodeCmd (op : BitVec 3) : Except DecodeError Instr :=
  if op = 0 then .ok .encode
  else if op = 1 then .ok .decode
  else if op = 2 then .ok .escape
  else if op = 3 then .ok .unescape
  else if op = 4 then .ok .checksum
  else .error (.reservedOpcode op)

/-- R85: the status codes; "All four 2-bit values are used". -/
def decodeRsp (st : BitVec 2) : Instr :=
  if st = 0 then .ok
  else if st = 1 then .checksumMismatch
  else if st = 2 then .malformedFrame
  else .allocationFailure

/-- R91: the symbol at the cursor; "A decoder tells the length of a symbol from its first byte alone". -/
def decodeWire : List Byte → Except DecodeError (Instr × List Byte)
  | [] => .error .noBytes
  | b :: rest =>
    if b = BOUNDARY then .ok (.boundary, rest)
    else if b = ESC then
      match rest with
      | [] => .error .truncatedEscape
      | v :: rest' => .ok (.escpair v, rest')
    else .ok (.data b, rest)

/-- The decoder: the instruction at the head of the bytes of one format, with the bytes after it. A CMD or RSP pattern
is one byte, the register's bits zero-extended. -/
def decode : Format → List Byte → Except DecodeError (Instr × List Byte)
  | .cmd, [] => .error .noBytes
  | .cmd, b :: rest =>
    if b.toNat < 8 then (decodeCmd (b.setWidth 3)).map (·, rest) else .error (.notThreeBits b)
  | .rsp, [] => .error .noBytes
  | .rsp, b :: rest =>
    if b.toNat < 4 then .ok (decodeRsp (b.setWidth 2), rest) else .error (.notTwoBits b)
  | .wire, bs => decodeWire bs

/-- R91: the whole wire stream as symbols, left to right. A byte that is the second byte of a pair is never
classified. -/
def parseWire : List Byte → Except DecodeError (List Instr)
  | [] => .ok []
  | b :: rest =>
    if b = ESC then
      match rest with
      | [] => .error .truncatedEscape
      | v :: rest' => (parseWire rest').map (.escpair v :: ·)
    else (parseWire rest).map ((if b = BOUNDARY then .boundary else .data b) :: ·)

/-- The encoder: the bytes of an instruction (R81, R85, R91). -/
def encode : Instr → List Byte
  | .encode => [0b000]
  | .decode => [0b001]
  | .escape => [0b010]
  | .unescape => [0b011]
  | .checksum => [0b100]
  | .ok => [0b00]
  | .checksumMismatch => [0b01]
  | .malformedFrame => [0b10]
  | .allocationFailure => [0b11]
  | .boundary => [0x7E]
  | .escpair v => [0x7D, v]
  | .data d => [d]

/-- The format and the bytes of a table word (log entry 2). A 2-bit row is read from STATUS and a 3-bit row from OP.
A whole byte is read from OP where it fits that register's three bits, else from the wire; a 16-bit row is two wire
bytes, the first leftmost (R94). The second byte of a pair that the word does not reach is 0. -/
def tableBytes (nbits w : Nat) : Option (Format × List Byte) :=
  if nbits ≤ 2 then (if w < 4 then some (.rsp, [BitVec.ofNat 8 w]) else none)
  else if nbits ≤ 7 then (if w < 8 then some (.cmd, [BitVec.ofNat 8 w]) else none)
  else if nbits ≤ 8 then
    if w < 8 then some (.cmd, [BitVec.ofNat 8 w])
    else if w = 0x7D then some (.wire, [0x7D, 0])
    else if w < 256 then some (.wire, [BitVec.ofNat 8 w])
    else none
  else if nbits ≤ 16 then
    if w < 65536 then some (.wire, [BitVec.ofNat 8 (w / 256), BitVec.ofNat 8 (w % 256)]) else none
  else none

/-- The instruction the decoder reads from a table word; it takes all of the word's bytes. -/
def decodeTableWord (nbits w : Nat) : Option Instr :=
  match tableBytes nbits w with
  | none => none
  | some (f, bs) =>
    match decode f bs with
    | .ok (i, []) => some i
    | _ => none

end Sys2Proof
end

