-- ==== Sys2Proof/Machine/State.lean ====
section
/-! DEFINITION. Everything 10_state.md gives one instance of the block (R20), as plain data: the table, the command
registers and IBUF, the response registers and OBUF, the working registers and scratch buffers, and the operation in
progress (R40's last row). INVENTORY.md, '## State', lists every field with its rule. -/

namespace Sys2Proof.Machine

/-- A storage space of bytes (R50): strictly rising index, one entry per byte that holds a value the spec gives. An
index with no entry holds none (log entries 3 and 4). -/
abbrev Memory := List Host.Cell

/-- R22, R23: the checksum table, a ROM. It has one content, that of R112, so the type has one value; entries are read
by `TableRom.read` (Machine/Checksum.lean). -/
inductive TableRom
  | rom
  deriving DecidableEq, Repr

/-- R85: the four result codes, by name. -/
inductive Status
  | ok
  | checksumMismatch
  | malformedFrame
  | allocationFailure
  deriving DecidableEq, Repr

/-- Where a scan of the Unescaper puts its bytes: OBUF in UNESCAPE (R147), UBUF in DECODE (R166). -/
inductive Sink
  | obuf
  | ubuf
  deriving DecidableEq, Repr

/-- The byte spaces an access can miss (R50). -/
inductive Space
  | ibuf
  | obuf
  | cbuf
  | ubuf
  deriving DecidableEq, Repr

/-- R40 "operation in progress". At a command boundary it is `idle`: a command runs as one step (R181). The other two
are the inside of an implementation that takes time (R225, log entry 1), with `DONE` at 0. -/
inductive Phase
  /-- No operation in progress. -/
  | idle
  /-- The Unescaper's output pass stands at `cur` (R141); the next wire symbol is there. -/
  | scan
  /-- The operation has its result; the status code `c` is about to be delivered (R12 `return`, `raise`). -/
  | respond (c : BitVec 2)
  deriving DecidableEq, Repr

/-- Why the machine faults. -/
inductive Fault
  /-- An access to a byte that does not exist: an index of `CAP` or more (R24, R25, R50). Raised by a host write of
  IBUF, a host read of OBUF, the byte writes of the output passes and the Frame Codec's write of CBUF. Safe: the space has no such
  byte. No step from a state of the invariant raises it. -/
  | indexOutside (sp : Space)
  deriving DecidableEq, Repr

/-- Why the machine gives a move no meaning. -/
inductive Refusal
  /-- Raised by exec's arm of an instruction without a meaning: none is left. Safe. -/
  | notModelled (mnemonic : String)
  /-- U4, R213: a START with OP, ILEN or a byte of IBUF[0..ILEN) never written. Raised by the fetch and by reading a
  command's operand. Safe: the spec says "a model refuses it". -/
  | commandNotWritten
  /-- U1, R84: OP is 5, 6 or 7. Raised by the fetch. Safe: the spec says "a model refuses such a command". -/
  | reservedOpcode (op : BitVec 3)
  /-- U5, R28: an input longer than CAP. Raised by the host's write of ILEN and by reading a command's operand. Safe:
  the spec says "it refuses such a command". -/
  | inputTooLong
  /-- U6, R221, R224: a START or a host access to IBUF, OBUF, OP or ILEN while an operation is executing. Raised by
  the host's moves and by a command's start. Safe as a step; that no host does it is the spec's assumption. -/
  | operationInProgress
  /-- A wire symbol with no scan in progress, or a result code that no operation is delivering. Raised by the meanings
  of the WIRE and RSP rows; no step reaches it. Safe: outside an operation the spec gives those rows no effect. -/
  | nothingInProgress
  deriving DecidableEq, Repr

/-- R20: the state of one instance. `opWritten`, `ilenWritten`, `phase` and `draws` are the model's own fields: what
R213 asks about, R40's last row, and the counter of the free values. -/
structure State where
  /-- R8, R21: configuration. No step changes it. -/
  cfg : Config
  /-- R22: TABLE. -/
  table : TableRom
  /-- R27: OP, 3 bits. -/
  op : BitVec 3
  /-- R213: the host has written OP since reset. -/
  opWritten : Bool
  /-- R28: ILEN. -/
  ilen : Nat
  /-- R213: the host has written ILEN since reset. -/
  ilenWritten : Bool
  /-- R24: IBUF. An entry is a byte the host has written since reset. -/
  ibuf : Memory
  /-- R32: DONE, 1 bit. -/
  done : Bool
  /-- R33: STATUS, 2 bits. -/
  status : BitVec 2
  /-- R34: OLEN. -/
  olen : Nat
  /-- R25: OBUF. An entry is a byte of the response (or of the output pass); the others are unspecified. -/
  obuf : Memory
  /-- R36: `crc`, 16 bits. -/
  crc : Word16
  /-- R36: `cur`. -/
  cur : Nat
  /-- R36: `wr`. -/
  wr : Nat
  /-- R36: `need`. -/
  need : Nat
  /-- R26: CBUF, the Checksummed Payload during ENCODE. -/
  cbuf : Memory
  /-- R26: UBUF, the unescaped frame during DECODE. -/
  ubuf : Memory
  /-- R40: the operation in progress. -/
  phase : Phase
  /-- How many free values have been drawn. -/
  draws : Nat
  deriving DecidableEq, Repr

/-- R40, R210: the state that reset leaves, for a configuration: DONE 0, the table valid, no operation in progress.
The registers and buffers R40 calls unspecified are 0 and empty (log entry 3). The counter of free values is no state
of the block, so it goes on. -/
def State.resetWith (cfg : Config) (draws : Nat) : State where
  cfg := cfg
  table := .rom
  op := 0
  opWritten := false
  ilen := 0
  ilenWritten := false
  ibuf := []
  done := false
  status := 0
  olen := 0
  obuf := []
  crc := 0
  cur := 0
  wr := 0
  need := 0
  cbuf := []
  ubuf := []
  phase := .idle
  draws := draws

/-- The block right after reset, with `CAP` unbounded (log entry 5: `CAP` is open, R8). -/
def State.reset : State := State.resetWith (Config.mk none) 0

end Sys2Proof.Machine
end

