-- ==== Sys2Proof/Machine/Ops.lean ====
section
/-! DEFINITION. The named operations over the storage spaces and the registers: one byte of a buffer at a time (R55,
R59), the start and the end of an operation (R29, R188), and the block's error mechanism, which is the whole of
"taking an exception" here: a status code and the emptiness of the output (R180, R188). -/

namespace Sys2Proof.Machine

/-- The three outcomes of a move, at this machine's types. -/
abbrev Result := Host.Outcome State Fault Refusal

/-- Go on from a next state; stop at a fault or a refusal. -/
def andThen (r : Result) (k : State → Result) : Result :=
  match r with
  | .next s => k s
  | .fault f => .fault f
  | .refused q => .refused q

/-! ### Storage (R50, R54, R56) -/

/-- The canonical form of a space: strictly rising indices. There is no entry to leave out, since an index with no
entry holds no value. -/
abbrev Memory.wf (m : Memory) : Prop := m.Pairwise (fun a b => a.1 < b.1)

/-- One byte, by index (R59). -/
def Memory.read : Memory → Nat → Option Byte
  | [], _ => none
  | c :: m, a => if a = c.1 then some c.2 else Memory.read m a

/-- R12 `OBUF[i] <- v`: write one byte. -/
def Memory.write : Memory → Nat → Byte → Memory
  | [], a, v => [(a, v)]
  | c :: m, a, v =>
    if a < c.1 then (a, v) :: c :: m
    else if a = c.1 then (a, v) :: m
    else c :: Memory.write m a v

/-- The bytes at `i`, `i + 1`, …, `i + n - 1`, if all of them hold a value (R11 `B[i..j)`). -/
def Memory.bytes (m : Memory) : Nat → Nat → Option (List Byte)
  | _, 0 => some []
  | i, n + 1 =>
    match m.read i with
    | none => none
    | some b => (Memory.bytes m (i + 1) n).map (b :: ·)

/-- The byte sequence stored from index `i` up. -/
def Memory.ofBytes : Nat → List Byte → Memory
  | _, [] => []
  | i, b :: bs => (i, b) :: Memory.ofBytes (i + 1) bs

/-- The listed bytes, in order of index. -/
def Memory.values (m : Memory) : List Byte := m.map (·.2)

/-- The listed indices. -/
def Memory.indices (m : Memory) : List Nat := m.map (·.1)

/-- Keep the bytes below index `n`; the others become unspecified (R25). -/
def Memory.keepBelow (m : Memory) (n : Nat) : Memory := m.filter (fun c => decide (c.1 < n))

/-! ### Capacity (R8, R186) -/

/-- `n <= CAP`. -/
def fits (c : Config) (n : Nat) : Bool :=
  match c.cap with
  | none => true
  | some k => decide (n ≤ k)

/-- Index `i` exists: `i <= CAP - 1` (R24, R25). -/
def indexExists (c : Config) (i : Nat) : Bool := fits c (i + 1)

/-! ### The start and the end of an operation -/

/-- R85: the code of a result. -/
def Status.code : Status → BitVec 2
  | .ok => 0
  | .checksumMismatch => 1
  | .malformedFrame => 2
  | .allocationFailure => 3

/-- R85: the result of a code. -/
def Status.ofCode (c : BitVec 2) : Status :=
  if c = 0 then .ok else if c = 1 then .checksumMismatch else if c = 2 then .malformedFrame else .allocationFailure

/-- R85: whether a result carries output bytes. -/
def Status.hasOutput : Status → Bool
  | .ok | .checksumMismatch => true
  | .malformedFrame | .allocationFailure => false

/-- R29, R36: the state an operation starts from. DONE is 0 until completion; what OBUF and the scratch buffers held
is of no account from here on (R25, R26); the working registers are initialised. -/
def begin (s : State) : State :=
  { s with done := false, obuf := [], cbuf := [], ubuf := [], crc := SEED, cur := 0, wr := 0, need := 0 }

/-- R36: the start of an input scan. -/
def startScan (s : State) : State := { s with cur := 0 }

/-- R36: the start of an output pass. -/
def startOutput (s : State) : State := { s with wr := 0 }

/-- R36, R58: the sizing pass has found the exact output length. -/
def withNeed (n : Nat) (s : State) : State := { s with need := n }

/-- R36: the input cursor moves over `n` bytes. -/
def advance (n : Nat) (s : State) : State := { s with cur := s.cur + n }

/-- CBUF holds `bs`. -/
def withCbuf (bs : List Byte) (s : State) : State := { s with cbuf := Memory.ofBytes 0 bs }

/-- R26, R50: CBUF takes the Checksummed Payload; it has at most `CAP` bytes. -/
def storeCbuf (bs : List Byte) (s : State) : Result :=
  if fits s.cfg bs.length then .next (withCbuf bs s) else .fault (.indexOutside .cbuf)

/-- R225: the operation in progress goes on in phase `p`. -/
def inPhase (p : Phase) (s : State) : State := { s with phase := p }

/-- R188, R183 to R186: an operation completes. STATUS takes the code, OLEN the output length (0 for a result without
output), DONE takes 1; OBUF beyond OLEN is unspecified (R25) and the working registers and scratch buffers hold no
defined value from here on (R26, R36, U7). -/
def finish (st : Status) (s : State) : State :=
  let m := if st.hasOutput then s.wr else 0
  { s with
    done := true, status := st.code, olen := m, obuf := s.obuf.keepBelow m, phase := .idle
    crc := Config.freeCrc s.draws, cur := Config.freeCur s.draws
    wr := Config.freeWr s.draws, need := Config.freeNeed s.draws
    cbuf := [], ubuf := [], draws := s.draws + 1 }

/-- R12 `return` and `raise`, in the atomic machine: the operation completes in this step. -/
def complete (st : Status) (s : State) : Result := .next (finish st s)

/-- R12 `return` and `raise`, in an implementation that takes time: the result is decided and its code is delivered
by the next step. -/
def conclude (st : Status) (s : State) : Result := .next (inPhase (.respond st.code) s)

/-- R58, R186: after the sizing pass, the output pass where `need <= CAP`, else AllocationFailure with nothing
written. -/
def ifFits (body : State → Result) (s : State) : Result :=
  if fits s.cfg s.need then body s else complete .allocationFailure s

/-! ### Byte writes of the output passes (R58) -/

/-- The space a sink is. -/
def Sink.space : Sink → Space
  | .obuf => .obuf
  | .ubuf => .ubuf

/-- R12 `OBUF[wr] <- b; wr <- wr + 1`, and the same on UBUF. Index `CAP` and up does not exist (R25, R50). -/
def emit (k : Sink) (b : Byte) (s : State) : Result :=
  if indexExists s.cfg s.wr then
    match k with
    | .obuf => .next { s with obuf := s.obuf.write s.wr b, wr := s.wr + 1 }
    | .ubuf => .next { s with ubuf := s.ubuf.write s.wr b, wr := s.wr + 1 }
  else .fault (.indexOutside k.space)

/-- An output pass that writes a byte sequence as it stands. -/
def emitAll (k : Sink) : List Byte → State → Result
  | [], s => .next s
  | b :: bs, s => andThen (emit k b s) (emitAll k bs)

end Sys2Proof.Machine
end

