-- ==== Sys2Proof/Machine/Operands.lean ====
section
/-! DEFINITION. The one operand form of the block, the input byte sequence `IBUF[0..ILEN)` (R80), and the values
assembled from bytes (R52, R83, R90). -/

namespace Sys2Proof.Machine

/-- R10 `low(c) = c[7:0]`. -/
def low (c : Word16) : Byte := c.setWidth 8

/-- R10 `high(c) = c[15:8]`. -/
def high (c : Word16) : Byte := (c >>> 8).setWidth 8

/-- R52, R90: `zext_16(lo) | (zext_16(hi) << 8)`. -/
def word16 (lo hi : Byte) : Word16 := lo.setWidth 16 ||| (hi.setWidth 16 <<< 8)

/-- R52: the checksum's two bytes, low byte first. -/
def checksumBytes (c : Word16) : List Byte := [low c, high c]

/-- R80: the command's operand, `IBUF[0..ILEN)`, or why the command is refused: an operation is executing (R224, U6),
ILEN or a byte of the input has never been written (R213, U4), or ILEN is above CAP (R28, U5). -/
def readInput (s : State) : Except Refusal (List Byte) :=
  match s.phase with
  | .scan => .error .operationInProgress
  | .respond _ => .error .operationInProgress
  | .idle =>
    if s.ilenWritten then
      if fits s.cfg s.ilen then
        match s.ibuf.bytes 0 s.ilen with
        | some inp => .ok inp
        | none => .error .commandNotWritten
      else .error .inputTooLong
    else .error .commandNotWritten

/-- A command starts on its operand (R29), or is refused. -/
def withInput (s : State) (body : List Byte → State → Result) : Result :=
  match readInput s with
  | .ok inp => body inp (begin s)
  | .error q => .refused q

/-- R57, R65: the input bytes not yet scanned, `IBUF[cur..ILEN)`. -/
def remaining (s : State) : Option (List Byte) := s.ibuf.bytes s.cur (s.ilen - s.cur)

/-- Which space the scan in progress writes (R51): the operation is the one in OP, sampled at START and not changed
while it runs (R65). -/
def sinkOf (s : State) : Sink := if s.op = 1 then .ubuf else .obuf

/-- A wire symbol is consumed by a scan in progress and by nothing else. -/
def whenScanning (s : State) (body : State → Result) : Result :=
  if s.phase = .scan then body s else .refused .nothingInProgress

end Sys2Proof.Machine
end

