-- ==== Sys2Proof/Machine/Flags.lean ====
section
/-! DEFINITION. STATUS, "the block's only condition code" (R33), how each operation comes by its value (R35), and the
response that the registers hold (R41, R82). -/

namespace Sys2Proof.Machine

/-- R33: "the verification-failed flag" is the predicate `STATUS == 1`. -/
def State.verificationFailed (s : State) : Bool := s.status == 1

/-- R168: DECODE's status from the comparison of the two checksums. -/
def statusOfVerified (verified : Bool) : Status := if verified then .ok else .checksumMismatch

/-- R41 `resp`: none, or the status and the output `OBUF[0..OLEN)`. -/
def State.response (s : State) : Option (Status × List Byte) :=
  if s.done then (s.obuf.bytes 0 s.olen).map (fun out => (Status.ofCode s.status, out)) else none

/-- R186: the response of an operation whose only error is the capacity of the output buffer. -/
def cappedResponse (c : Config) (out : List Byte) : Status × List Byte :=
  if fits c out.length then (.ok, out) else (.allocationFailure, [])

/-- A result code is delivered by the operation that decided on it and by nothing else. -/
def whenResponding (st : Status) (s : State) (body : State → Result) : Result :=
  if s.phase = .respond st.code then body s else .refused .nothingInProgress

end Sys2Proof.Machine
end

