-- ==== Sys2Proof/Machine/Escaper.lean ====
section
/-! DEFINITION. The Escaper (41_escaper.md): the function `escape`, its sizing pass and the operation ESCAPE. -/

namespace Sys2Proof.Machine

/-- R14: the reserved bytes. -/
def isReserved (b : Byte) : Bool := b == BOUNDARY || b == ESC

/-- R130: the output for one input byte. -/
def escapeByte (b : Byte) : List Byte := if isReserved b then [ESC, b ^^^ MASK] else [b]

/-- R130: every input byte left to right. -/
def escape : List Byte → List Byte
  | [] => []
  | b :: bs => escapeByte b ++ escape bs

/-- R132: the "count of reserved bytes in input". -/
def reservedCount (bs : List Byte) : Nat := bs.countP isReserved

/-- R131: the sizing pass. -/
def escapeSize (bs : List Byte) : Nat := bs.length + reservedCount bs

/-- R134: the output pass, byte by byte into OBUF. -/
def escapePass : List Byte → State → Result
  | [], s => .next s
  | b :: bs, s =>
    andThen
      (if isReserved b then andThen (emit .obuf ESC s) (emit .obuf (b ^^^ MASK)) else emit .obuf b s)
      (fun s => escapePass bs (advance 1 s))

/-- R134 as a function of the command (R41 `Exec`). -/
def escapeResponse (c : Config) (inp : List Byte) : Status × List Byte := cappedResponse c (escape inp)

/-- R134 ESCAPE: sizing pass, capacity test, output pass (D33). -/
def execEscape (s : State) : Result :=
  withInput s fun inp s =>
    ifFits (fun s => andThen (escapePass inp (startOutput (startScan s))) (complete .ok))
      (withNeed (escapeSize inp) s)

end Sys2Proof.Machine
end

