-- ==== Sys2Proof/Machine/Unescaper.lean ====
section
/-! DEFINITION. The Unescaper (42_unescaper.md): the function `unescape`, its sizing pass, its streaming form, one step
of its scan on the registers, and the operation UNESCAPE. `none` is `Err(MalformedFrame)` (R13). -/

namespace Sys2Proof.Machine

/-- R141, R142: the scan. The byte after a marker is looked at only where there is one. -/
def unescape : List Byte → Option (List Byte)
  | [] => some []
  | b :: rest =>
    if b = ESC then
      match rest with
      | [] => none
      | v :: rest' => (unescape rest').map ((v ^^^ MASK) :: ·)
    else (unescape rest).map (b :: ·)

/-- R143: the sizing pass; it steps as the scan does and counts one output byte per step. -/
def unescapeSize : List Byte → Option Nat
  | [] => some 0
  | b :: rest =>
    if b = ESC then
      match rest with
      | [] => none
      | _ :: rest' => (unescapeSize rest').map (· + 1)
    else (unescapeSize rest).map (· + 1)

/-- R144: the number of active escape markers, those on which the cursor stands. -/
def activeMarkers : List Byte → Nat
  | [] => 0
  | b :: rest =>
    if b = ESC then
      match rest with
      | [] => 1
      | _ :: rest' => activeMarkers rest' + 1
    else activeMarkers rest

/-- R149: one input byte of the byte-serial form: the flag `pend` and what has been emitted. -/
def streamStep (a : Bool × List Byte) (b : Byte) : Bool × List Byte :=
  if a.1 then (false, a.2 ++ [b ^^^ MASK])
  else if b = ESC then (true, a.2)
  else (false, a.2 ++ [b])

/-- R149: the byte-serial form; at the end `pend` set means MalformedFrame. -/
def unescapeStream (bs : List Byte) : Option (List Byte) :=
  match bs.foldl streamStep (false, []) with
  | (true, _) => none
  | (false, out) => some out

/-! ### On the registers -/

/-- R141: "Otherwise emit the current byte and advance by one." -/
def consumeByte (k : Sink) (b : Byte) (s : State) : Result :=
  andThen (emit k b s) fun s => .next (advance 1 s)

/-- R141: "emit `nextByte XOR 0x20` and advance the cursor by two". -/
def consumePair (k : Sink) (v : Byte) (s : State) : Result :=
  andThen (emit k (v ^^^ MASK) s) fun s => .next (advance 2 s)

/-- R141, R147: the output pass over the input from the cursor to its end. -/
def scanPass (k : Sink) (onTruncated onEnd : State → Result) : List Byte → State → Result
  | [], s => onEnd s
  | b :: rest, s =>
    if b = ESC then
      match rest with
      | [] => onTruncated s
      | v :: rest' => andThen (consumePair k v s) (scanPass k onTruncated onEnd rest')
    else andThen (consumeByte k b s) (scanPass k onTruncated onEnd rest)

/-- R147 as a function of the command (R41 `Exec`). -/
def unescapeResponse (inp : List Byte) : Status × List Byte :=
  match unescape inp with
  | none => (.malformedFrame, [])
  | some out => (.ok, out)

/-- R147 UNESCAPE: sizing pass, which finds the malformed case, then the output pass. -/
def execUnescape (s : State) : Result :=
  withInput s fun inp s =>
    match unescapeSize inp with
    | none => complete .malformedFrame s
    | some n =>
      scanPass .obuf (complete .malformedFrame) (complete .ok) inp (startOutput (startScan (withNeed n s)))

/-- R29, R225: START of a scanning operation in an implementation that takes time: the sizing pass (R143), then the
output pass stands at the first symbol. -/
def beginScan (s : State) : Result :=
  withInput s fun inp s =>
    match unescapeSize inp with
    | none => conclude .malformedFrame s
    | some n => .next (inPhase .scan (startOutput (startScan (withNeed n s))))

end Sys2Proof.Machine
end

