-- ==== Sys2Proof/Machine/FrameCodec.lean ====
section
/-! DEFINITION. The Frame Codec (43_frame_codec.md): the functions `encode` and `decode` of the spec, here
`encodeFrame` and `decodeFrame`, and the operations ENCODE and DECODE. -/

namespace Sys2Proof.Machine

/-- R156: the Checksummed Payload. -/
def checksummed (p : List Byte) : List Byte := p ++ checksumBytes (crc16 p)

/-- R156: checksum, append, escape, wrap. -/
def encodeFrame (p : List Byte) : List Byte := [BOUNDARY] ++ escape (checksummed p) ++ [BOUNDARY]

/-- R164 step 2: the payload of an unescaped buffer, `U[1 .. m-3)`. -/
def framePayload (u : List Byte) : List Byte := (u.drop 1).take (u.length - 4)

/-- R164: the embedded checksum, `U[m-3]` and `U[m-2]`. -/
def frameChecksum (u : List Byte) : Word16 := word16 (u.getD (u.length - 3) 0) (u.getD (u.length - 2) 0)

/-- R164, R165 (b), (c): at least four bytes, the first and the last of them the boundary marker. -/
def frameShaped (u : List Byte) : Bool :=
  decide (MIN_FRAME ≤ u.length) && (u.getD 0 0 == BOUNDARY && u.getD (u.length - 1) 0 == BOUNDARY)

/-- R164: `none` is `Err(MalformedFrame)`, `some (payload, verified)` is `Ok(payload, verified)`. -/
def decodeFrame (f : List Byte) : Option (List Byte × Bool) :=
  match unescape f with
  | none => none
  | some u =>
    if frameShaped u then some (framePayload u, crc16 (framePayload u) == frameChecksum u) else none

/-! ### On the registers -/

/-- R160 as a function of the command (R41 `Exec`). -/
def encodeResponse (c : Config) (inp : List Byte) : Status × List Byte := cappedResponse c (encodeFrame inp)

/-- R168 as a function of the command (R41 `Exec`). -/
def decodeResponse (inp : List Byte) : Status × List Byte :=
  match decodeFrame inp with
  | none => (.malformedFrame, [])
  | some (p, verified) => (statusOfVerified verified, p)

/-- R160 ENCODE: checksum of the payload, sizing pass over the Checksummed Payload plus two markers, capacity test,
CBUF, output. CBUF is written after the test, which keeps it within its `CAP` bytes (R50, log entry 11). -/
def execEncode (s : State) : Result :=
  withInput s fun inp s =>
    let s := runChecksum inp s
    let cp := inp ++ checksumBytes (checksumResult s)
    ifFits (fun s =>
      andThen (storeCbuf cp s) fun s =>
      andThen (emit .obuf BOUNDARY (startOutput s)) fun s =>
      andThen (escapePass s.cbuf.values (startScan s)) fun s =>
      andThen (emit .obuf BOUNDARY s) (complete .ok)) (withNeed (escapeSize cp + 2) s)

/-- R164 steps 2 to 5, on the unescaped frame in UBUF: the shape tests, the checksum of the payload, the exact output
length (R58, R166, log entry 15: four bytes less than the unescaped frame), the payload into OBUF, and the comparison.
`last` ends the operation with the status found. -/
def interpretFrame (last : Status → State → Result) (s : State) : Result :=
  let u := s.ubuf.values
  if frameShaped u then
    let s := withNeed (framePayload u).length (runChecksum (framePayload u) s)
    andThen (emitAll .obuf (framePayload u) (startOutput s)) fun s =>
      last (statusOfVerified (checksumResult s == frameChecksum u)) s
  else last .malformedFrame s

/-- R168 DECODE: unescape the whole input into UBUF, then interpret it. -/
def execDecode (s : State) : Result :=
  withInput s fun inp s =>
    match unescapeSize inp with
    | none => complete .malformedFrame s
    | some n =>
      scanPass .ubuf (complete .malformedFrame) (interpretFrame complete) inp
        (startOutput (startScan (withNeed n s)))

/-- R147, R168: the end of a scan in progress, `cur == n`: UNESCAPE has its output, DECODE interprets UBUF. -/
def endScan (s : State) : Result :=
  match sinkOf s with
  | .obuf => conclude .ok s
  | .ubuf => interpretFrame conclude s

end Sys2Proof.Machine
end

