-- ==== Sys2Proof/Machine/Wire.lean ====
section
/-! DEFINITION. The meanings of the wire symbols (R91): what the scan in progress does with the symbol at its cursor
(R89, R141). -/

namespace Sys2Proof.Machine

/-- R89, R91: the byte a wire symbol stands for. -/
def symbolValue : Instr → Option Byte
  | .boundary => some BOUNDARY
  | .escpair v => some (v ^^^ MASK)
  | .data d => some d
  | .encode | .decode | .escape | .unescape | .checksum => none
  | .ok | .checksumMismatch | .malformedFrame | .allocationFailure => none

/-- R91 BOUNDARY: "the Unescaper copies it through unchanged". -/
def execBoundary (s : State) : Result := whenScanning s fun s => consumeByte (sinkOf s) BOUNDARY s

/-- R89 ESCPAIR: yields `v ^ 0x20`, whatever `v` is. -/
def execEscpair (v : Byte) (s : State) : Result := whenScanning s fun s => consumePair (sinkOf s) v s

/-- R91 DATA: "stands for itself". -/
def execData (d : Byte) (s : State) : Result := whenScanning s fun s => consumeByte (sinkOf s) d s

end Sys2Proof.Machine
end

