-- ==== Sys2Proof/Machine/Response.lean ====
section
/-! DEFINITION. The meanings of the result codes (R183 to R186): the operation in progress delivers its response and
ends (R188). -/

namespace Sys2Proof.Machine

/-- R183 OK: the output is `OBUF[0..OLEN)`. -/
def execOk (s : State) : Result := whenResponding .ok s (complete .ok)

/-- R184 ChecksumMismatch: the payload is delivered "exactly as for OK". -/
def execChecksumMismatch (s : State) : Result := whenResponding .checksumMismatch s (complete .checksumMismatch)

/-- R185 MalformedFrame: "the output is empty". -/
def execMalformedFrame (s : State) : Result := whenResponding .malformedFrame s (complete .malformedFrame)

/-- R186 AllocationFailure: "the output is empty". -/
def execAllocationFailure (s : State) : Result := whenResponding .allocationFailure s (complete .allocationFailure)

end Sys2Proof.Machine
end

