-- ==== Sys2Proof/Machine/Dispatch.lean ====
section
/-! DEFINITION. One arm per row of the opcode table. -/

namespace Sys2Proof.Machine

def exec (i : Instr) (s : State) : Host.Outcome State Fault Refusal :=
  match i with
  -- CMD
  | .encode => Sys2Proof.Machine.execEncode s
  | .decode => Sys2Proof.Machine.execDecode s
  | .escape => Sys2Proof.Machine.execEscape s
  | .unescape => Sys2Proof.Machine.execUnescape s
  | .checksum => Sys2Proof.Machine.execChecksum s
  -- RSP
  | .ok => Sys2Proof.Machine.execOk s
  | .checksumMismatch => Sys2Proof.Machine.execChecksumMismatch s
  | .malformedFrame => Sys2Proof.Machine.execMalformedFrame s
  | .allocationFailure => Sys2Proof.Machine.execAllocationFailure s
  -- WIRE
  | .boundary => Sys2Proof.Machine.execBoundary s
  | .escpair v => Sys2Proof.Machine.execEscpair v s
  | .data d => Sys2Proof.Machine.execData d s

end Sys2Proof.Machine
end

