-- ==== Sys2Proof/Machine/Fetch.lean ====
section
/-! DEFINITION. What the next step runs. The block has no program counter and fetches no instructions (R31, R65): with
no operation in progress the step is a START of the operation in OP (R29); inside an operation of an implementation
that takes time it is the wire symbol at the cursor (R91) or the result code to deliver (R85). -/

namespace Sys2Proof.Machine

/-- What a step finds to do. -/
inductive Fetched
  /-- Run an instruction. -/
  | instr (i : Instr)
  /-- The scan in progress is at its end, `cur >= n` (R141). -/
  | scanEnd
  /-- An active escape marker is the last byte (R142). -/
  | truncated
  /-- There is nothing the step may run. -/
  | stop (r : Refusal)
  deriving DecidableEq, Repr

/-- R27, R84, R213: START of the operation in OP. -/
def fetchCommand (s : State) : Fetched :=
  if s.opWritten then
    match decode .cmd [s.op.setWidth 8] with
    | .ok (i, _) => .instr i
    | .error _ => .stop (.reservedOpcode s.op)
  else .stop .commandNotWritten

/-- R91, R141, R142: the symbol at the cursor of the scan in progress. -/
def fetchSymbol (s : State) : Fetched :=
  match remaining s with
  | none => .stop .commandNotWritten
  | some [] => .scanEnd
  | some (b :: rest) =>
    match decode .wire (b :: rest) with
    | .ok (i, _) => .instr i
    | .error _ => .truncated

/-- R85: the result code of the operation in progress. -/
def fetchResult (c : BitVec 2) : Fetched :=
  match decode .rsp [c.setWidth 8] with
  | .ok (i, _) => .instr i
  | .error _ => .stop .nothingInProgress

def fetch (s : State) : Fetched :=
  match s.phase with
  | .idle => fetchCommand s
  | .scan => fetchSymbol s
  | .respond c => fetchResult c

/-- The bytes of one table word put where the next step takes its instruction from (log entry 2). For a command: OP,
with an input of no bytes. For a result code: an operation with that code to deliver. For wire bytes: an UNESCAPE whose
scan stands at the first of them, after its sizing pass. -/
def placeWord (s : State) (f : Format) (bs : List Byte) : State :=
  match f with
  | .cmd =>
    { s with op := (bs.getD 0 0).setWidth 3, opWritten := true, ilen := 0, ilenWritten := true, phase := .idle }
  | .rsp => { begin s with phase := .respond ((bs.getD 0 0).setWidth 2) }
  | .wire =>
    { begin s with op := 3, opWritten := true, ilen := bs.length, ilenWritten := true, ibuf := Memory.ofBytes 0 bs
                   need := (unescapeSize bs).getD 0, phase := .scan }

end Sys2Proof.Machine
end

