-- ==== Sys2Proof/Machine/Step.lean ====
section
/-! DEFINITION. One step: with no operation in progress, the START strobe, which runs the command in OP as one
transition (R29, R181); inside an operation of an implementation that takes time, the operation's next move (R225). -/

namespace Sys2Proof.Machine

def step (s : State) : Host.Outcome State Fault Refusal :=
  match fetch s with
  | .instr i => exec i s
  | .scanEnd => endScan s
  | .truncated => conclude .malformedFrame s
  | .stop r => .refused r

/-- `s` with the table word stored where the next step takes its instruction from. -/
def State.withFetchWord (s : State) (nbits w : Nat) : State :=
  match Sys2Proof.tableBytes nbits w with
  | some (f, bs) => placeWord s f bs
  | none => s

end Sys2Proof.Machine
end

