-- ==== Sys2Proof/Machine/HostPort.lean ====
section
/-! DEFINITION. What the host can do to one instance (R24 to R34, R93, R210, R223): write the command registers and
IBUF, START, wait, reset, and read the response registers and OBUF. -/

namespace Sys2Proof.Machine

/-- R221, R224: between START and DONE the host has no access to the command registers and the buffers (R62 (b), U6). -/
def whenIdle (s : State) (body : State → Result) : Result :=
  if s.phase = .idle then body s else .refused .operationInProgress

/-- R27: OP holds `v`, written by the host. -/
def putOp (v : BitVec 3) (s : State) : State := { s with op := v, opWritten := true }

/-- R28: ILEN holds `n`, written by the host. -/
def putIlen (n : Nat) (s : State) : State := { s with ilen := n, ilenWritten := true }

/-- R24: IBUF holds `b` at index `i`, written by the host. -/
def putIbuf (i : Nat) (b : Byte) (s : State) : State := { s with ibuf := s.ibuf.write i b }

/-- R27: write OP. -/
def writeOp (v : BitVec 3) (s : State) : Result := whenIdle s fun s => .next (putOp v s)

/-- R28: write ILEN; a value above CAP cannot be presented. -/
def writeIlen (n : Nat) (s : State) : Result :=
  whenIdle s fun s =>
    if fits s.cfg n then .next (putIlen n s) else .refused .inputTooLong

/-- R24: write one byte of IBUF. -/
def writeIbuf (i : Nat) (b : Byte) (s : State) : Result :=
  whenIdle s fun s =>
    if indexExists s.cfg i then .next (putIbuf i b s) else .fault (.indexOutside .ibuf)

/-- R24: write `IBUF[i..)`, byte by byte. -/
def writeInput : Nat → List Byte → State → Result
  | _, [], s => .next s
  | i, b :: bs, s => andThen (writeIbuf i b s) (writeInput (i + 1) bs)

/-- R93: the register writes of one command of a script: OP, ILEN and the input. -/
def presentCommand (op : BitVec 3) (inp : List Byte) (s : State) : Result :=
  andThen (writeOp op s) fun s => andThen (writeIlen inp.length s) (writeInput 0 inp)

/-- R29: START, which the host may write only when no operation is executing. -/
def start (s : State) : Result := whenIdle s step

/-- R29, R225: START in an implementation that takes time over its scans (UNESCAPE and DECODE, log entry 1); any other
command is as `start`. -/
def startTimed (s : State) : Result :=
  whenIdle s fun s => if s.opWritten ∧ (s.op = 1 ∨ s.op = 3) then beginScan s else step s

/-- R93 "wait for `DONE == 1`": an operation in progress makes its next move; with none, nothing happens. -/
def wait (s : State) : Result := if s.phase = .idle then .next s else step s

/-- R93: wait `k` times. -/
def waits : Nat → State → Result
  | 0, s => .next s
  | k + 1, s => andThen (wait s) (waits k)

/-- R210: reset, from any state. -/
def reset (s : State) : Result := .next (State.resetWith s.cfg s.draws)

/-- A free value has been drawn. -/
def drawn (s : State) : State := { s with draws := s.draws + 1 }

/-- R27: read OP, "the last value written". The host has this read only with no operation executing (R62 (b), U6). -/
def readOp (s : State) : BitVec 3 × State :=
  if s.opWritten then (s.op, s) else (Config.freeOp s.draws, drawn s)

/-- R32: read DONE. -/
def readDone (s : State) : Bool × State := (s.done, s)

/-- R33, R211: read STATUS; any value while DONE is 0 (U3). -/
def readStatus (s : State) : BitVec 2 × State :=
  if s.done then (s.status, s) else (Config.freeStatus s.draws, drawn s)

/-- R34, R211: read OLEN; any value while DONE is 0 (U3). -/
def readOlen (s : State) : Nat × State := if s.done then (s.olen, s) else (Config.freeOlen s.draws, drawn s)

/-- R25, R211, R223: the byte a read of `OBUF[i]` answers; any value from index OLEN up (U2: "two reads need not
agree") and while DONE is 0 (U3). -/
def obufByte (i : Nat) (s : State) : Byte × State :=
  if s.done && decide (i < s.olen) then
    match s.obuf.read i with
    | some b => (b, s)
    | none => (Config.freeByte s.draws, drawn s)
  else (Config.freeByte s.draws, drawn s)

/-- What a host read answers, with the state after it. -/
inductive ReadObuf
  | byte (b : Byte) (s : State)
  | fault (f : Fault)
  | refused (r : Refusal)
  deriving DecidableEq, Repr

/-- R25: read `OBUF[i]`. -/
def readObuf (i : Nat) (s : State) : ReadObuf :=
  if s.phase = .idle then
    if indexExists s.cfg i then .byte (obufByte i s).1 (obufByte i s).2 else .fault (.indexOutside .obuf)
  else .refused .operationInProgress

/-- R93, R193: every move of the host, by its effect on the state. -/
inductive HostMove
  | writeOp (v : BitVec 3)
  | writeIlen (n : Nat)
  | writeIbuf (i : Nat) (b : Byte)
  | start
  | startTimed
  | wait
  | reset
  | readOp
  | readDone
  | readStatus
  | readOlen
  | readObuf (i : Nat)
  deriving DecidableEq, Repr

def hostMove (m : HostMove) (s : State) : Result :=
  match m with
  | .writeOp v => writeOp v s
  | .writeIlen n => writeIlen n s
  | .writeIbuf i b => writeIbuf i b s
  | .start => start s
  | .startTimed => startTimed s
  | .wait => wait s
  | .reset => reset s
  | .readOp => whenIdle s fun s => .next (readOp s).2
  | .readDone => .next (readDone s).2
  | .readStatus => .next (readStatus s).2
  | .readOlen => .next (readOlen s).2
  | .readObuf i =>
    match readObuf i s with
    | .byte _ s => .next s
    | .fault f => .fault f
    | .refused r => .refused r

/-- R93: a script, its moves in order. -/
def runScript : List HostMove → State → Result
  | [], s => .next s
  | m :: ms, s => andThen (hostMove m s) (runScript ms)

end Sys2Proof.Machine
end

