-- ==== Sys2Proof/Machine/System.lean ====
section
/-! DEFINITION. Several instances (R67, R196): the product of independent copies of the single-instance model, sharing
nothing but the constant table. -/

namespace Sys2Proof.Machine

/-- `N_INST` instances (R8): what each has come to, one result each. An instance that one of its moves has stopped
stays so, and the others go on (log entry 10). -/
abbrev System := List Result

/-- Instances that stand at the given states. -/
def System.ofStates (ss : List State) : System := ss.map Host.Outcome.next

/-- A host move on instance `k`. -/
def System.move (k : Nat) (m : HostMove) (sys : System) : System := sys.modify k (fun r => andThen r (hostMove m))

/-- Moves of several instances, in one order. -/
def System.run : List (Nat × HostMove) → System → System
  | [], sys => sys
  | a :: ms, sys => System.run ms (System.move a.1 a.2 sys)

/-- The moves of instance `k` among them, in their order. -/
def movesOf (k : Nat) (moves : List (Nat × HostMove)) : List HostMove :=
  (moves.filter (fun a => a.1 == k)).map (·.2)

end Sys2Proof.Machine
end

