-- ==== Sys2Proof/Safety.lean ====
section
/-! DEFINITION. What counts as a safe state, in the terms the statements use: which commands are ready to run, and the
invariant that every step and every host move keeps. -/

namespace Sys2Proof.Machine

/-- R29, R62 (a), R213: a command stands ready on the input `inp`: no operation in progress, ILEN written and not above
CAP, and every byte of `IBUF[0..ILEN)` written. -/
structure State.Ready (s : State) (inp : List Byte) : Prop where
  idle : s.phase = .idle
  ilenWritten : s.ilenWritten = true
  ilenFits : fits s.cfg s.ilen = true
  input : s.ibuf.bytes 0 s.ilen = some inp

/-- What a command, a wire symbol and a delivery leave as they were (R24, R27, R28, R188): the configuration, the table
and the command registers with IBUF. -/
structure SameCommand (s t : State) : Prop where
  cfg : t.cfg = s.cfg
  table : t.table = s.table
  op : t.op = s.op
  opWritten : t.opWritten = s.opWritten
  ilen : t.ilen = s.ilen
  ilenWritten : t.ilenWritten = s.ilenWritten
  ibuf : t.ibuf = s.ibuf

/-- R181, R188: the response registers hold the response `(st, out)` and no operation is in progress: DONE is 1,
STATUS is the code, OLEN is the length of `out`, and OBUF holds `out` at 0, 1, … and gives no other byte a value. -/
structure State.Delivers (t : State) (st : Status) (out : List Byte) : Prop where
  done : t.done = true
  status : t.status = st.code
  olen : t.olen = out.length
  obuf : t.obuf = Memory.ofBytes 0 out
  idle : t.phase = .idle

/-- A space lists exactly the bytes at 0, 1, …, n - 1. -/
def Memory.Exactly (m : Memory) (n : Nat) : Prop := m.indices = List.range n

/-- The part of the invariant about the operation in progress. -/
def State.PhaseInv (s : State) : Prop :=
  match s.phase with
  | .idle =>
    s.cbuf = [] ∧ s.ubuf = [] ∧
    (s.done = false → s.obuf = []) ∧
    (s.done = true → s.obuf.Exactly s.olen ∧ fits s.cfg s.olen = true ∧
      ((Status.ofCode s.status).hasOutput = false → s.olen = 0))
  | .scan =>
    s.done = false ∧ (s.op = 1 ∨ s.op = 3) ∧ s.ilenWritten = true ∧ s.cur ≤ s.ilen ∧ s.wr ≤ s.cur ∧
    (s.ibuf.bytes 0 s.ilen).isSome ∧ s.cbuf = [] ∧
    (∃ bs out, remaining s = some bs ∧ unescape bs = some out ∧ s.wr + out.length = s.need) ∧
    (match sinkOf s with
      | .obuf => s.obuf.Exactly s.wr ∧ s.ubuf = []
      | .ubuf => s.ubuf.Exactly s.wr ∧ s.obuf = [])
  | .respond c =>
    s.done = false ∧ ((Status.ofCode c).hasOutput = true → s.obuf.Exactly s.wr ∧ fits s.cfg s.wr = true ∧ s.wr = s.need)

/-- The invariant: the four byte spaces are in canonical form and inside the capacity (R50), ILEN is at most CAP (R28),
OLEN is at most CAP and 0 for a result without output (R34), a response lists exactly its OLEN bytes (R25), and inside
an operation DONE is 0 (R32) and `need` is the exact length of the output: what a scan has written and what it will
still write add up to it, and so does an output about to be delivered (R58, R143). -/
structure State.Inv (s : State) : Prop where
  ibufWf : s.ibuf.wf
  ibufInside : ∀ i ∈ s.ibuf.indices, indexExists s.cfg i = true
  ilenFits : fits s.cfg s.ilen = true
  obufWf : s.obuf.wf
  obufInside : ∀ i ∈ s.obuf.indices, indexExists s.cfg i = true
  cbufWf : s.cbuf.wf
  cbufInside : ∀ i ∈ s.cbuf.indices, indexExists s.cfg i = true
  ubufWf : s.ubuf.wf
  ubufInside : ∀ i ∈ s.ubuf.indices, indexExists s.cfg i = true
  phase : s.PhaseInv

/-- A step that does not fault. -/
def NoFault (r : Result) : Prop := ∀ f, r ≠ .fault f

end Sys2Proof.Machine
end

