-- ==== Sys2Proof/Certificates/Slice0/Obligations.lean ====
section
/-! DEFINITION. The statements for the provers, in the order of OBLIGATIONS.json. -/

open Sys2Proof Sys2Proof.Machine

/-! ### Encodings (30_encoding.md) -/

/-- R81, R85, R91: a few words of the table, written out bit by bit, decode to their rows. -/
def Obligations.OpcodeTableWordsDecode : Prop :=
  decode .cmd [0b00000000] = .ok (.encode, []) ∧ decode .cmd [0b00000001] = .ok (.decode, []) ∧
  decode .cmd [0b00000100] = .ok (.checksum, []) ∧
  decode .rsp [0b00000001] = .ok (.checksumMismatch, []) ∧ decode .rsp [0b00000011] = .ok (.allocationFailure, []) ∧
  decode .wire [0b01111110] = .ok (.boundary, []) ∧
  decode .wire [0b01111101, 0b01011110] = .ok (.escpair 0b01011110, []) ∧
  decode .wire [0b01000001] = .ok (.data 0b01000001, [])

/-- R81, R85, R91: decode and encode agree, in both directions: what the decoder reads as an instruction is exactly the
encoding of that well-formed instruction, followed by the rest. -/
def Obligations.DecodeEncodeAgree : Prop :=
  ∀ (f : Format) (bs : List Byte) (i : Instr) (rest : List Byte),
    decode f bs = .ok (i, rest) ↔ i.format = f ∧ i.wellFormed = true ∧ bs = encode i ++ rest

/-- R91: a wire stream parses into symbols in exactly one way: the symbols are well formed and their encodings, in
order, are the stream. -/
def Obligations.WireStreamParsesUniquely : Prop :=
  ∀ (bs : List Byte) (syms : List Instr),
    parseWire bs = .ok syms ↔
      (∀ i ∈ syms, i.format = .wire ∧ i.wellFormed = true) ∧ bs = syms.flatMap encode

/-- R91: the symbol at the cursor, by its first byte; an escape marker with no second byte is malformed, and a second
byte is never classified. -/
def Obligations.SymbolAtCursorByFirstByte : Prop :=
  ∀ (b : Byte) (rest : List Byte),
    (b = 0x7E → decode .wire (b :: rest) = .ok (.boundary, rest)) ∧
    (b = 0x7D → rest = [] → decode .wire (b :: rest) = .error .truncatedEscape) ∧
    (∀ v rest', b = 0x7D → rest = v :: rest' → decode .wire (b :: rest) = .ok (.escpair v, rest')) ∧
    (b ≠ 0x7E → b ≠ 0x7D → decode .wire (b :: rest) = .ok (.data b, rest))

/-! ### The step -/

/-- R29, R65, R91, R85: a step runs the instruction that decodes from where the machine stands: the operation in OP
when no operation is in progress, the wire symbol at the cursor of a scan, the result code an operation delivers. -/
def Obligations.StepRunsTheDecodedInstruction : Prop :=
  ∀ (s : State) (i : Instr) (rest : List Byte),
    (s.phase = .idle → s.opWritten = true → decode .cmd [s.op.setWidth 8] = .ok (i, rest) → step s = exec i s) ∧
    (∀ b bs, s.phase = .scan → remaining s = some (b :: bs) → decode .wire (b :: bs) = .ok (i, rest) →
      step s = exec i s) ∧
    (∀ c, s.phase = .respond c → decode .rsp [c.setWidth 8] = .ok (i, rest) → step s = exec i s)

/-- R141, R142, R164, in the model's scan phase (log entry 1): a scan at the end of its input ends. UNESCAPE has its
output and will deliver OK. DECODE interprets UBUF: where it is boundary, payload, two checksum bytes, boundary, the
payload is written to OBUF from index 0 up, `need` is its length, and OK or ChecksumMismatch will be delivered as the
checksums compare; otherwise MalformedFrame. A lone escape marker at the end is MalformedFrame. -/
def Obligations.ScanEndsOrIsMalformed : Prop :=
  ∀ s : State, s.phase = .scan →
    (remaining s = some [] → s.op ≠ 1 → step s = .next { s with phase := .respond 0 }) ∧
    (remaining s = some [] → s.op = 1 →
      (∀ p lo hi, s.ubuf.values = [0x7E] ++ p ++ [lo, hi] ++ [0x7E] → fits s.cfg p.length = true →
        ∃ t, step s = .next t ∧ t.phase = .respond (if crc16 p = word16 lo hi then 0 else 1) ∧
          t.wr = p.length ∧ t.need = p.length ∧ (∀ a, t.obuf.read a = (p[a]?).or (s.obuf.read a)) ∧
          SameCommand s t ∧ t.done = s.done ∧ t.status = s.status ∧ t.olen = s.olen ∧ t.ubuf = s.ubuf ∧
          t.cbuf = s.cbuf) ∧
      ((∀ p lo hi, s.ubuf.values ≠ [0x7E] ++ p ++ [lo, hi] ++ [0x7E]) →
        step s = .next { s with phase := .respond 2 })) ∧
    (remaining s = some [0x7D] → step s = .next { s with phase := .respond 2 })

/-- R84: a reserved operation code selects no operation; the command is refused. -/
def Obligations.ReservedOpcodeRefused : Prop :=
  ∀ s : State, s.phase = .idle → s.opWritten = true → 5 ≤ s.op.toNat →
    step s = .refused (.reservedOpcode s.op) ∧ start s = .refused (.reservedOpcode s.op)

/-- R181: an operation is one transition: a step with no operation in progress that answers a next state answers one in
which the operation is complete. -/
def Obligations.OperationIsOneTransition : Prop :=
  ∀ s t : State, s.phase = .idle → step s = .next t → t.phase = .idle ∧ t.done = true

/-- R181: every operation completes, with a response. -/
def Obligations.EveryOperationCompletes : Prop :=
  ∀ (s : State) (inp : List Byte), s.Ready inp → s.opWritten = true → s.op.toNat < 5 →
    ∃ t st out, step s = .next t ∧ t.Delivers st out ∧ SameCommand s t

/-- R213, R28, R224 (U4, U5, U6): where a command stops, in the order of the tests. -/
def Obligations.CommandRefusals : Prop :=
  ∀ (i : Instr) (s : State), i.format = .cmd →
    (s.phase ≠ .idle → exec i s = .refused .operationInProgress) ∧
    (s.phase = .idle → s.ilenWritten = false → exec i s = .refused .commandNotWritten) ∧
    (s.phase = .idle → s.ilenWritten = true → fits s.cfg s.ilen = false → exec i s = .refused .inputTooLong) ∧
    (s.phase = .idle → s.ilenWritten = true → fits s.cfg s.ilen = true → s.ibuf.bytes 0 s.ilen = none →
      exec i s = .refused .commandNotWritten) ∧
    (s.phase = .idle → s.opWritten = false → step s = .refused .commandNotWritten)

/-! ### The Checksum Engine (40_checksum.md) -/

/-- R111: the table's entries are what the generating rule gives. -/
def Obligations.TableIsGenerated : Prop := ∀ i : Byte, TableRom.rom.read i = generatedEntry i

/-- R112: `TABLE[a ^ b] = TABLE[a] ^ TABLE[b]` for all indices. -/
def Obligations.TableXorLinear : Prop :=
  ∀ a b : Byte, TableRom.rom.read (a ^^^ b) = TableRom.rom.read a ^^^ TableRom.rom.read b

/-- R115: the table-driven checksum equals the bit-serial one on every input. -/
def Obligations.ChecksumEqualsBitSerial : Prop := ∀ bs : List Byte, crc16 bs = crc16Serial bs

/-- R114: the checksum of the empty input. -/
def Obligations.ChecksumOfEmptyIsZero : Prop := crc16 [] = 0x0000

/-- R52: the decoder assembles the checksum from the two bytes that the encoder lays out. -/
def Obligations.ChecksumBytesAssemble : Prop := ∀ c : Word16, word16 (low c) (high c) = c

/-- R117 CHECKSUM: with capacity for two bytes the two checksum bytes, low byte first, else AllocationFailure; the
code that starts it, how the value is read back, and the rule's examples. -/
def Obligations.ChecksumCompletes : Prop :=
  (∀ (s : State) (inp : List Byte), s.Ready inp →
    (s.opWritten = true → s.op = 4 → step s = exec .checksum s) ∧
    ∃ t, exec .checksum s = .next t ∧ SameCommand s t ∧
      (fits s.cfg 2 = true → t.Delivers .ok [low (crc16 inp), high (crc16 inp)]) ∧
      (fits s.cfg 2 = false → t.Delivers .allocationFailure [])) ∧
  (∀ inp : List Byte, word16 (low (crc16 inp)) (high (crc16 inp)) = crc16 inp) ∧
  crc16 [] = 0x0000 ∧ crc16 [0x1B, 0x00] = 0x7E7E ∧ crc16 [0x01, 0x02] = 0x358D

/-! ### The Escaper (41_escaper.md) -/

/-- R132: the length law, with its bounds and where they are reached; R131: the sizing pass gives that length. -/
def Obligations.EscapeLengthLaw : Prop :=
  ∀ bs : List Byte,
    (escape bs).length = bs.length + reservedCount bs ∧ escapeSize bs = (escape bs).length ∧
    bs.length ≤ (escape bs).length ∧ (escape bs).length ≤ 2 * bs.length ∧
    ((∀ b ∈ bs, isReserved b = false) → (escape bs).length = bs.length) ∧
    ((∀ b ∈ bs, isReserved b = true) → (escape bs).length = 2 * bs.length)

/-- R133 (a), (b): no boundary marker in the output, and every escape marker is followed by 0x5E or 0x5D. -/
def Obligations.EscapeOutputIsWellFormed : Prop :=
  ∀ bs : List Byte,
    (∀ b ∈ escape bs, b ≠ 0x7E) ∧
    (∀ k : Nat, (escape bs)[k]? = some 0x7D →
      (escape bs)[k + 1]? = some 0x5E ∨ (escape bs)[k + 1]? = some 0x5D)

/-- R133 (d), (e): `escape` is injective and handles each byte independently. -/
def Obligations.EscapeInjectiveAndAppends : Prop :=
  (∀ as bs : List Byte, escape as = escape bs → as = bs) ∧
  (∀ as bs : List Byte, escape (as ++ bs) = escape as ++ escape bs)

/-- R134 ESCAPE: the escaped bytes where they fit, else AllocationFailure, which needs a reserved byte in the input; the
code that starts it and the rule's example. -/
def Obligations.EscapeCompletes : Prop :=
  (∀ (s : State) (inp : List Byte), s.Ready inp →
    (s.opWritten = true → s.op = 2 → step s = exec .escape s) ∧
    ∃ t, exec .escape s = .next t ∧ SameCommand s t ∧
      (fits s.cfg (inp.length + reservedCount inp) = true → t.Delivers .ok (escape inp)) ∧
      (fits s.cfg (inp.length + reservedCount inp) = false →
        t.Delivers .allocationFailure [] ∧ 0 < reservedCount inp)) ∧
  escape [0x01, 0x7E, 0x02, 0x7D] = [0x01, 0x7D, 0x5E, 0x02, 0x7D, 0x5D]

/-! ### The Unescaper (42_unescaper.md) -/

/-- R146: the round trip, and that its converse fails. -/
def Obligations.UnescapeUndoesEscape : Prop :=
  (∀ bs : List Byte, unescape (escape bs) = some bs) ∧
  (unescape [0x7E] = some [0x7E] ∧ unescape [0x7D, 0x5E] = some [0x7E] ∧ escape [0x7E] = [0x7D, 0x5E]) ∧
  (unescape [0x7D, 0x01] = some [0x21] ∧ escape [0x21] ≠ [0x7D, 0x01])

/-- R141, R89, R91: the scan emits the value of each wire symbol, in order, and fails where the stream has no parse. -/
def Obligations.UnescapeEmitsSymbolValues : Prop :=
  ∀ bs : List Byte,
    (∀ syms, parseWire bs = .ok syms → unescape bs = some (syms.filterMap symbolValue)) ∧
    (∀ e, parseWire bs = .error e → unescape bs = none)

/-- R142: MalformedFrame exactly when an active escape marker is the last byte. -/
def Obligations.MalformedExactlyWhenLoneMarkerIsLast : Prop :=
  (∀ bs : List Byte, unescape bs = none ↔ ∃ as out, unescape as = some out ∧ bs = as ++ [0x7D]) ∧
  unescape [0x7D, 0x7D] = some [0x5D] ∧
  unescape [0x7D] = none ∧ unescape [0x01, 0x7D] = none ∧ unescape [0x7D, 0x7D, 0x7D] = none

/-- R143: the sizing pass gives the exact output length and finds the malformed case. -/
def Obligations.SizingPassIsExact : Prop :=
  ∀ bs : List Byte, unescapeSize bs = (unescape bs).map List.length

/-- R144: the length law in active markers; on a well-formed buffer every 0x7D is active; the example [7D, 7D, 01]. -/
def Obligations.UnescapeLengthLaw : Prop :=
  (∀ bs out : List Byte, unescape bs = some out → out.length + activeMarkers bs = bs.length) ∧
  (∀ bs : List Byte, activeMarkers (escape bs) = (escape bs).count 0x7D) ∧
  (activeMarkers [0x7D, 0x7D, 0x01] = 1 ∧ unescape [0x7D, 0x7D, 0x01] = some [0x5D, 0x01])

/-- R145: the output is no longer than the input and at least half as long. -/
def Obligations.UnescapeBounds : Prop :=
  ∀ bs out : List Byte, unescape bs = some out → out.length ≤ bs.length ∧ bs.length ≤ 2 * out.length

/-- R149: the byte-serial form with its `pend` flag gives the same results. -/
def Obligations.StreamingFormIsEquivalent : Prop := ∀ bs : List Byte, unescapeStream bs = unescape bs

/-- R147 UNESCAPE: the unescaped bytes, or MalformedFrame with no output exactly when an active escape marker is the
last byte; the code that starts it and the rule's example. -/
def Obligations.UnescapeCompletes : Prop :=
  (∀ (s : State) (inp : List Byte), s.Ready inp →
    (s.opWritten = true → s.op = 3 → step s = exec .unescape s) ∧
    ∃ t, exec .unescape s = .next t ∧ SameCommand s t ∧
      (∀ out, unescape inp = some out → t.Delivers .ok out) ∧
      (unescape inp = none → t.Delivers .malformedFrame []) ∧
      (t.status = 2 ↔ ∃ as out, unescape as = some out ∧ inp = as ++ [0x7D])) ∧
  unescape [0x7E, 0x7D, 0x5E, 0x01, 0x7D, 0x5D, 0x7E] = some [0x7E, 0x7E, 0x01, 0x7D, 0x7E]

/-! ### The Frame Codec (43_frame_codec.md) -/

/-- R156, R157: a frame is a boundary marker, a well-formed escaped body and a boundary marker. -/
def Obligations.EncodedFrameIsWellFormed : Prop :=
  ∀ p : List Byte, ∃ body : List Byte,
    encodeFrame p = [0x7E] ++ body ++ [0x7E] ∧ (∀ b ∈ body, b ≠ 0x7E) ∧
    (∀ k : Nat, body[k]? = some 0x7D → body[k + 1]? = some 0x5E ∨ body[k + 1]? = some 0x5D) ∧
    unescape body = some (p ++ [low (crc16 p), high (crc16 p)]) ∧ 4 ≤ (encodeFrame p).length

/-- R158, R87: the frame's length and its bounds. -/
def Obligations.EncodedFrameLength : Prop :=
  ∀ p : List Byte,
    (encodeFrame p).length = p.length + 4 + reservedCount (p ++ [low (crc16 p), high (crc16 p)]) ∧
    p.length + 4 ≤ (encodeFrame p).length ∧ (encodeFrame p).length ≤ 2 * p.length + 6

/-- R157, R167, R172: `encode` is injective and its frames decode, verified; `decode` is not injective: frames that
`encode` never produces are accepted, a literal boundary marker inside one among them. -/
def Obligations.EncodeInjectiveDecodeNot : Prop :=
  (∀ p q : List Byte, encodeFrame p = encodeFrame q → p = q) ∧
  (∀ p : List Byte, decodeFrame (encodeFrame p) = some (p, true) ∧
    ∃ f, f ≠ encodeFrame p ∧ decodeFrame f = some (p, true)) ∧
  (∃ f p v, decodeFrame f = some (p, v) ∧ 0x7E ∈ f.tail.dropLast)

/-- R164, R165: what `decode` accepts and answers: the unescaped buffer is boundary, payload, two checksum bytes,
boundary, and the payload is verified when its checksum is the one assembled from the two bytes. -/
def Obligations.DecodeAcceptsExactlyFrames : Prop :=
  ∀ (f p : List Byte) (verified : Bool),
    decodeFrame f = some (p, verified) ↔
      ∃ lo hi : Byte, unescape f = some ([0x7E] ++ p ++ [lo, hi] ++ [0x7E]) ∧
        verified = (crc16 p == word16 lo hi)

/-- R166: the payload is four bytes shorter than the unescaped frame, whatever the verification outcome, and the
unescaped frame is no longer than the received one. -/
def Obligations.DecodedPayloadLength : Prop :=
  ∀ (f p : List Byte) (verified : Bool), decodeFrame f = some (p, verified) →
    ∃ u, unescape f = some u ∧ p.length + 4 = u.length ∧ u.length ≤ f.length

/-- R160 ENCODE: the frame where its length `n + 4 + r` fits, else AllocationFailure; the code that starts it and the
rule's examples. -/
def Obligations.EncodeCompletes : Prop :=
  (∀ (s : State) (inp : List Byte) (need : Nat), s.Ready inp →
    need = inp.length + 4 + reservedCount (inp ++ [low (crc16 inp), high (crc16 inp)]) →
    (s.opWritten = true → s.op = 0 → step s = exec .encode s) ∧
    ∃ t, exec .encode s = .next t ∧ SameCommand s t ∧
      (fits s.cfg need = true → t.Delivers .ok (encodeFrame inp) ∧ t.olen = need) ∧
      (fits s.cfg need = false → t.Delivers .allocationFailure [])) ∧
  encodeFrame [] = [0x7E, 0x00, 0x00, 0x7E] ∧ encodeFrame [0x7E] = [0x7E, 0x7D, 0x5E, 0x81, 0x6A, 0x7E] ∧
  encodeFrame [0x1B, 0x00] = [0x7E, 0x1B, 0x00, 0x7D, 0x5E, 0x7D, 0x5E, 0x7E]

/-- R168, R165, R169 DECODE: OK or ChecksumMismatch with the payload, or MalformedFrame with no output for one of the
three causes; the code that starts it and the rule's example. -/
def Obligations.DecodeCompletes : Prop :=
  (∀ (s : State) (inp : List Byte), s.Ready inp →
    (s.opWritten = true → s.op = 1 → step s = exec .decode s) ∧
    ∃ t, exec .decode s = .next t ∧ SameCommand s t ∧
      (∀ p, decodeFrame inp = some (p, true) → t.Delivers .ok p) ∧
      (∀ p, decodeFrame inp = some (p, false) → t.Delivers .checksumMismatch p ∧ t.verificationFailed = true) ∧
      (decodeFrame inp = none → t.Delivers .malformedFrame [])) ∧
  (∀ inp : List Byte, decodeFrame inp = none ↔
    unescape inp = none ∨
      ∃ u, unescape inp = some u ∧ (u.length < 4 ∨ u.head? ≠ some 0x7E ∨ u.getLast? ≠ some 0x7E)) ∧
  decodeFrame [0x7E, 0x7D, 0x5E, 0x81, 0x6A, 0x7E] = some ([0x7E], true)

/-- R170, R93: the round trip as a function, and on the machine, through the host's moves: ENCODE of a payload whose
frame fits answers OK with the frame, and DECODE of that frame then answers OK with the payload. -/
def Obligations.RoundTripOnTheMachine : Prop :=
  (∀ p : List Byte, decodeFrame (encodeFrame p) = some (p, true)) ∧
  ∀ (s : State) (p : List Byte), s.phase = .idle → fits s.cfg (encodeFrame p).length = true →
    ∃ s₁ t u v, presentCommand 0 p s = .next s₁ ∧ start s₁ = .next t ∧ t.Delivers .ok (encodeFrame p) ∧
      presentCommand 1 (encodeFrame p) t = .next u ∧ start u = .next v ∧ v.Delivers .ok p

/-! ### Wire symbols and result codes inside an operation -/

/-- R141, R89, R91, in the model's scan phase (log entry 1): a scan in progress consumes a symbol: the byte it stands for is written at `wr` (of OBUF in
UNESCAPE), `wr` moves by one and `cur` by the length of the symbol; nothing else changes. -/
def Obligations.UnescapeScanConsumesSymbol : Prop :=
  ∀ s : State, s.phase = .scan → s.op ≠ 1 → indexExists s.cfg s.wr = true →
    exec .boundary s = .next { s with obuf := s.obuf.write s.wr 0x7E, wr := s.wr + 1, cur := s.cur + 1 } ∧
    (∀ v, exec (.escpair v) s =
      .next { s with obuf := s.obuf.write s.wr (v ^^^ 0x20), wr := s.wr + 1, cur := s.cur + 2 }) ∧
    (∀ d, exec (.data d) s = .next { s with obuf := s.obuf.write s.wr d, wr := s.wr + 1, cur := s.cur + 1 })

/-- R164 step 1, R166: the same in DECODE, whose scan writes UBUF; a symbol a move is the model's choice (log entry
1). -/
def Obligations.DecodeScanConsumesSymbol : Prop :=
  ∀ s : State, s.phase = .scan → s.op = 1 → indexExists s.cfg s.wr = true →
    exec .boundary s = .next { s with ubuf := s.ubuf.write s.wr 0x7E, wr := s.wr + 1, cur := s.cur + 1 } ∧
    (∀ v, exec (.escpair v) s =
      .next { s with ubuf := s.ubuf.write s.wr (v ^^^ 0x20), wr := s.wr + 1, cur := s.cur + 2 }) ∧
    (∀ d, exec (.data d) s = .next { s with ubuf := s.ubuf.write s.wr d, wr := s.wr + 1, cur := s.cur + 1 })

/-- The frame of a wire symbol, one move of the model's scan phase (log entry 1): it writes the byte at the write index
of OBUF in UNESCAPE and of UBUF in DECODE, no other byte of that space and nothing of the other, and leaves the
command, the response registers, `crc`, `need` and CBUF as they were. -/
def Obligations.SymbolFrame : Prop :=
  ∀ (i : Instr) (s t : State), i.format = .wire → exec i s = .next t →
    SameCommand s t ∧ t.done = s.done ∧ t.status = s.status ∧ t.olen = s.olen ∧ t.crc = s.crc ∧ t.need = s.need ∧
    t.cbuf = s.cbuf ∧ t.phase = s.phase ∧ (s.op = 1 → t.obuf = s.obuf) ∧ (s.op ≠ 1 → t.ubuf = s.ubuf) ∧
    (∀ a, a ≠ s.wr → t.obuf.read a = s.obuf.read a ∧ t.ubuf.read a = s.ubuf.read a)

/-- R183, R184, R188: OK and ChecksumMismatch deliver the output written so far; the two differ only in STATUS. -/
def Obligations.ResultWithOutputDelivered : Prop :=
  ∀ s : State,
    (s.phase = .respond 0 → ∃ t, exec .ok s = .next t ∧ t.done = true ∧ t.status = 0 ∧ t.olen = s.wr ∧
      t.phase = .idle ∧ (∀ a, a < s.wr → t.obuf.read a = s.obuf.read a) ∧ SameCommand s t) ∧
    (s.phase = .respond 1 → ∃ t, exec .checksumMismatch s = .next t ∧ t.done = true ∧ t.status = 1 ∧ t.olen = s.wr ∧
      t.phase = .idle ∧ (∀ a, a < s.wr → t.obuf.read a = s.obuf.read a) ∧ SameCommand s t)

/-- R185, R186, R188: MalformedFrame and AllocationFailure deliver no output. -/
def Obligations.ResultWithoutOutputDelivered : Prop :=
  ∀ s : State,
    (s.phase = .respond 2 → ∃ t, exec .malformedFrame s = .next t ∧ t.Delivers .malformedFrame [] ∧ SameCommand s t) ∧
    (s.phase = .respond 3 →
      ∃ t, exec .allocationFailure s = .next t ∧ t.Delivers .allocationFailure [] ∧ SameCommand s t)

/-- Where the symbols and the result codes stop (the model's choice, log entries 1 and 7): outside the operation that
awaits them, and at an index that does not exist. -/
def Obligations.SymbolsAndResultsOutsideAnOperationStop : Prop :=
  ∀ s : State,
    (∀ i : Instr, i.format = .wire → s.phase ≠ .scan → exec i s = .refused .nothingInProgress) ∧
    (∀ i : Instr, i.format = .wire → s.phase = .scan → s.op ≠ 1 → indexExists s.cfg s.wr = false →
      exec i s = .fault (.indexOutside .obuf)) ∧
    (∀ i : Instr, i.format = .wire → s.phase = .scan → s.op = 1 → indexExists s.cfg s.wr = false →
      exec i s = .fault (.indexOutside .ubuf)) ∧
    (∀ c : BitVec 2, s.phase ≠ .respond c → exec (decodeRsp c) s = .refused .nothingInProgress)

/-! ### Rules about the whole machine -/

/-- R22, R24, R188: no instruction changes the table, the configuration, OP, ILEN or IBUF. -/
def Obligations.NoInstructionChangesTheCommand : Prop :=
  ∀ (i : Instr) (s t : State), exec i s = .next t → SameCommand s t

/-- R35, R34: which STATUS values each operation can answer, that OLEN is 0 for a result without output, and that OLEN
is at most CAP. -/
def Obligations.StatusValuesByOperation : Prop :=
  ∀ (i : Instr) (s t : State), i.format = .cmd → exec i s = .next t →
    (i = .checksum ∨ i = .escape ∨ i = .encode → t.status = 0 ∨ t.status = 3) ∧
    (i = .unescape → t.status = 0 ∨ t.status = 2) ∧
    (i = .decode → t.status = 0 ∨ t.status = 1 ∨ t.status = 2) ∧
    (t.status = 2 ∨ t.status = 3 → t.olen = 0) ∧ fits s.cfg t.olen = true

/-- R20: the response is a function of OP, the input, CAP and TABLE alone: two states that agree on those answer the
same response, whatever else they hold. -/
def Obligations.ResponseDependsOnTheCommandAlone : Prop :=
  ∀ (s u : State) (inp : List Byte), s.Ready inp → u.Ready inp → s.opWritten = true → u.opWritten = true →
    s.op = u.op → s.cfg = u.cfg → s.op.toNat < 5 →
    ∃ t v r, step s = .next t ∧ step u = .next v ∧ t.response = some r ∧ v.response = some r

/-- R59, R189: the same command issued again gives the same response, after an error too. -/
def Obligations.RepeatedCommandRepeatsResponse : Prop :=
  ∀ s t : State, s.phase = .idle → step s = .next t →
    ∃ u r, step t = .next u ∧ t.response = some r ∧ u.response = some r

/-- R214: the capacity each operation needs. -/
def Obligations.CapacityNeeded : Prop :=
  ∀ (s : State) (inp : List Byte), s.Ready inp →
    (fits s.cfg 4 = false → ∃ t, exec .encode s = .next t ∧ t.Delivers .allocationFailure []) ∧
    (fits s.cfg (2 * inp.length + 6) = true → ∃ t, exec .encode s = .next t ∧ t.Delivers .ok (encodeFrame inp)) ∧
    (fits s.cfg (2 * inp.length) = true → ∃ t, exec .escape s = .next t ∧ t.Delivers .ok (escape inp)) ∧
    (fits s.cfg 2 = true → ∃ t out, exec .checksum s = .next t ∧ t.Delivers .ok out) ∧
    (∃ t, exec .unescape s = .next t ∧ t.status ≠ 3) ∧ (∃ t, exec .decode s = .next t ∧ t.status ≠ 3)

/-- R225: an implementation that takes its scans symbol by symbol has the same observable behaviour: from START with
DONE at 0 it reaches, while the host waits, the very state the atomic step gives. The division into moves is the
model's choice (log entry 1), and that the unobservable working registers agree too rests on the model's free values
(log entry 4). -/
def Obligations.TimedScanReachesTheAtomicResult : Prop :=
  ∀ (s : State) (inp : List Byte), s.Ready inp → s.opWritten = true → s.op = 1 ∨ s.op = 3 →
    ∃ t k u, startTimed s = .next t ∧ t.done = false ∧ t.phase ≠ .idle ∧ waits k t = .next u ∧ u.done = true ∧
      step s = .next u

/-- The invariant holds right after reset, for every configuration. -/
def Obligations.ResetMeetsTheInvariant : Prop :=
  (∀ (c : Config) (n : Nat), (State.resetWith c n).Inv) ∧ State.reset.Inv

/-- R25, R28, R32, R34, R50: every step keeps the invariant. -/
def Obligations.StepKeepsTheInvariant : Prop := ∀ s t : State, s.Inv → step s = .next t → t.Inv

/-- Every move of the host keeps the invariant. -/
def Obligations.HostMovesKeepTheInvariant : Prop :=
  ∀ (m : HostMove) (s t : State), s.Inv → hostMove m s = .next t → t.Inv

/-- R57, R58, R182: no step from a state of the invariant makes an access outside a buffer. -/
def Obligations.StepNeverFaults : Prop := ∀ s : State, s.Inv → NoFault (step s)

/-- R58: the output pass of a scan writes below `need` only, each index once, in rising order, and an output about to be
delivered has exactly `need` bytes (in the model's phases, log entry 1). -/
def Obligations.OutputStaysBelowNeed : Prop :=
  ∀ s t : State, s.Inv → step s = .next t →
    (s.phase = .scan → t.phase = .scan → s.wr < s.need ∧ t.need = s.need ∧ t.wr = s.wr + 1) ∧
    (s.phase = .scan → t.phase = .respond 0 ∨ t.phase = .respond 1 → t.wr = t.need) ∧
    (s.phase = .respond 0 ∨ s.phase = .respond 1 → t.olen = s.need)

/-! ### The host's side (10_state.md, 60_exceptions.md, 70_reset_and_hazards.md) -/

/-- R210, R40: reset from any state: no response held, no operation in progress, the table valid, and no command
register written, so that a START is refused (R213). -/
def Obligations.ResetLeavesNoResponse : Prop :=
  ∀ s : State, ∃ t, hostMove .reset s = .next t ∧ t.done = false ∧ t.response = none ∧ t.phase = .idle ∧
    t.table = .rom ∧ t.cfg = s.cfg ∧ t.opWritten = false ∧ t.ilenWritten = false ∧ t.ibuf = [] ∧
    start t = .refused .commandNotWritten

/-- R93, R213: writing OP, ILEN and the input makes the command ready, and touches no response register. -/
def Obligations.PresentedCommandIsReady : Prop :=
  ∀ (s : State) (op : BitVec 3) (inp : List Byte), s.phase = .idle → fits s.cfg inp.length = true →
    ∃ t, presentCommand op inp s = .next t ∧ t.Ready inp ∧ t.op = op ∧ t.opWritten = true ∧ t.cfg = s.cfg ∧
      t.done = s.done ∧ t.status = s.status ∧ t.olen = s.olen ∧ t.obuf = s.obuf

/-- R24, R27, R28: what each host write does: OP reads back, ILEN above CAP is refused, and an IBUF byte changes alone;
an index of CAP or more does not exist, and that a write there faults is the model's choice (log entry 7). -/
def Obligations.HostWritesTakeEffect : Prop :=
  ∀ s : State, s.phase = .idle →
    (∀ v, ∃ t, hostMove (.writeOp v) s = .next t ∧ readOp t = (v, t)) ∧
    (∀ n, fits s.cfg n = true → hostMove (.writeIlen n) s = .next { s with ilen := n, ilenWritten := true }) ∧
    (∀ n, fits s.cfg n = false → hostMove (.writeIlen n) s = .refused .inputTooLong) ∧
    (∀ i b, indexExists s.cfg i = true → ∃ t, hostMove (.writeIbuf i b) s = .next t ∧
      t.ibuf.read i = some b ∧ ∀ j, j ≠ i → t.ibuf.read j = s.ibuf.read j) ∧
    (∀ i b, indexExists s.cfg i = false → hostMove (.writeIbuf i b) s = .fault (.indexOutside .ibuf))

/-- R221, R224 (U6): while an operation is executing the host has no START and no access to the buffers, OP or ILEN. -/
def Obligations.HostMayNotInterfere : Prop :=
  ∀ s : State, s.phase ≠ .idle →
    (∀ v, hostMove (.writeOp v) s = .refused .operationInProgress) ∧
    (∀ n, hostMove (.writeIlen n) s = .refused .operationInProgress) ∧
    (∀ i b, hostMove (.writeIbuf i b) s = .refused .operationInProgress) ∧
    (∀ i, hostMove (.readObuf i) s = .refused .operationInProgress) ∧
    hostMove .readOp s = .refused .operationInProgress ∧
    hostMove .start s = .refused .operationInProgress ∧ hostMove .startTimed s = .refused .operationInProgress

/-- R62 (c), R223: with a response held, the host reads DONE 1, the status, the length and every output byte, and the
reads change nothing. -/
def Obligations.HostReadsTheResponse : Prop :=
  ∀ (t : State) (st : Status) (out : List Byte), t.Delivers st out → fits t.cfg out.length = true →
    readDone t = (true, t) ∧ readStatus t = (st.code, t) ∧ readOlen t = (out.length, t) ∧
    ∀ (i : Nat) (h : i < out.length), readObuf i t = .byte out[i] t

/-- R59: reads have no side effects: a host read changes no register and no buffer (the model's counter of free values
apart, log entry 4). -/
def Obligations.HostReadsChangeNothing : Prop :=
  ∀ (s t : State) (m : HostMove),
    m = .readOp ∨ m = .readDone ∨ m = .readStatus ∨ m = .readOlen ∨ (∃ i, m = .readObuf i) →
    hostMove m s = .next t → t = { s with draws := t.draws }

/-- R67: in any interleaving of the moves of several instances, each instance comes exactly to what its own moves, in
their order, bring it to alone, whether those of another answer, are refused or fault. That a stopped instance stays
stopped while the others go on is the model's reading (log entry 10). -/
def Obligations.InstancesAreIndependent : Prop :=
  ∀ (moves : List (Nat × HostMove)) (sys : System),
    (System.run moves sys).length = sys.length ∧
    ∀ k : Nat, (System.run moves sys)[k]? = (sys[k]?).map (fun r => andThen r (runScript (movesOf k moves)))
end

