-- ==== Sys2Proof/Laws/Memory.lean ====
section
/-! SUPPORT. The byte spaces: reading after writing, the canonical form, and the sequence of bytes stored from 0 up. -/

namespace Sys2Proof.Machine

/-! ### Reading and writing one byte -/

theorem Memory.read_write_same (m : Memory) (a : Nat) (v : Byte) : (m.write a v).read a = some v := by
  induction m with
  | nil => simp [Memory.write, Memory.read]
  | cons c m ih =>
    by_cases h1 : a < c.1
    · simp [Memory.write, h1, Memory.read]
    · by_cases h2 : a = c.1
      · simp [Memory.write, h2, Memory.read]
      · simp [Memory.write, h1, h2, Memory.read, ih]

theorem Memory.read_write_other (m : Memory) (a b : Nat) (v : Byte) (h : b ≠ a) :
    (m.write a v).read b = m.read b := by
  induction m with
  | nil => simp [Memory.write, Memory.read, h]
  | cons c m ih =>
    by_cases h1 : a < c.1
    · simp [Memory.write, h1, Memory.read, h]
    · by_cases h2 : a = c.1
      · subst h2; simp [Memory.write, Memory.read, h]
      · simp [Memory.write, h1, h2, Memory.read, ih]

/-! ### The canonical form -/

theorem Memory.mem_write {m : Memory} {a : Nat} {v : Byte} {c : Host.Cell} (h : c ∈ m.write a v) :
    c = (a, v) ∨ c ∈ m := by
  induction m with
  | nil => simpa [Memory.write] using h
  | cons d m ih =>
    by_cases h1 : a < d.1
    · simpa [Memory.write, h1] using h
    · by_cases h2 : a = d.1
      · simp [Memory.write, h2] at h ⊢; tauto
      · simp [Memory.write, h1, h2] at h ⊢
        rcases h with h | h
        · exact .inr (.inl h)
        · rcases ih h with h | h <;> tauto

theorem Memory.write_wf {m : Memory} (a : Nat) (v : Byte) (h : m.wf) : (m.write a v).wf := by
  induction m with
  | nil => simp [Memory.write]
  | cons c m ih =>
    obtain ⟨hc, hm⟩ := List.pairwise_cons.1 h
    by_cases h1 : a < c.1
    · simp only [Memory.write, h1, if_true]
      refine List.pairwise_cons.2 ⟨fun d hd => ?_, h⟩
      rcases List.mem_cons.1 hd with rfl | hd
      · exact h1
      · exact h1.trans (hc d hd)
    · by_cases h2 : a = c.1
      · simp only [Memory.write, h2, lt_irrefl, if_true, if_false]
        exact List.pairwise_cons.2 ⟨hc, hm⟩
      · simp only [Memory.write, h1, h2, if_false]
        refine List.pairwise_cons.2 ⟨fun d hd => ?_, ih hm⟩
        rcases Memory.mem_write hd with rfl | hd
        · exact show c.1 < a by omega
        · exact hc d hd

theorem Memory.keepBelow_wf {m : Memory} (n : Nat) (h : m.wf) : (m.keepBelow n).wf := List.Pairwise.filter _ h

theorem Memory.ofBytes_indices (i : Nat) (bs : List Byte) :
    (Memory.ofBytes i bs).indices = List.range' i bs.length := by
  induction bs generalizing i with
  | nil => rfl
  | cons b bs ih => simpa [Memory.ofBytes, Memory.indices, List.range'_succ] using ih (i + 1)

theorem Memory.wf_of_indices {m : Memory} (h : m.indices.Pairwise (· < ·)) : m.wf := List.pairwise_map.1 h

theorem Memory.ofBytes_wf (i : Nat) (bs : List Byte) : (Memory.ofBytes i bs).wf :=
  Memory.wf_of_indices (by rw [Memory.ofBytes_indices]; exact List.pairwise_lt_range')

theorem Memory.Exactly.wf {m : Memory} {n : Nat} (h : m.Exactly n) : m.wf :=
  Memory.wf_of_indices (by rw [show m.indices = List.range n from h]; exact List.pairwise_lt_range)

/-- The spaces of the state right after reset are in canonical form. -/
theorem State.resetWith_wf (c : Config) (n : Nat) :
    (State.resetWith c n).ibuf.wf ∧ (State.resetWith c n).obuf.wf ∧ (State.resetWith c n).cbuf.wf ∧
      (State.resetWith c n).ubuf.wf := by
  simp [State.resetWith]

/-! ### Byte sequences stored from an index up -/

@[simp] theorem Memory.ofBytes_values (i : Nat) (bs : List Byte) : (Memory.ofBytes i bs).values = bs := by
  induction bs generalizing i with
  | nil => rfl
  | cons b bs ih => simpa [Memory.ofBytes, Memory.values] using ih (i + 1)

@[simp] theorem Memory.values_nil : Memory.values [] = [] := rfl

@[simp] theorem Memory.exactly_nil : Memory.Exactly [] 0 := rfl

theorem Memory.ofBytes_exactly (bs : List Byte) : (Memory.ofBytes 0 bs).Exactly bs.length := by
  rw [Memory.Exactly, Memory.ofBytes_indices, List.range_eq_range']

theorem Memory.eq_ofBytes_values {m : Memory} {i n : Nat} (h : m.indices = List.range' i n) :
    m = Memory.ofBytes i m.values := by
  induction m generalizing i n with
  | nil => rfl
  | cons c m ih =>
    cases n with
    | zero => simp [Memory.indices] at h
    | succ n =>
      simp only [Memory.indices, List.map_cons, List.range'_succ, List.cons.injEq] at h
      have := ih h.2
      obtain ⟨a, v⟩ := c
      simp only [Memory.values, List.map_cons, Memory.ofBytes, List.cons.injEq, Prod.mk.injEq, and_true]
      exact ⟨h.1, this⟩

theorem Memory.Exactly.eq_ofBytes {m : Memory} {n : Nat} (h : m.Exactly n) :
    m = Memory.ofBytes 0 m.values ∧ m.values.length = n := by
  have h' : m.indices = List.range' 0 n := by rw [← List.range_eq_range']; exact h
  refine ⟨Memory.eq_ofBytes_values h', ?_⟩
  simpa [Memory.indices, Memory.values] using congrArg List.length h'

theorem Memory.write_ofBytes_end (i : Nat) (bs : List Byte) (v : Byte) :
    (Memory.ofBytes i bs).write (i + bs.length) v = Memory.ofBytes i (bs ++ [v]) := by
  induction bs generalizing i with
  | nil => rfl
  | cons b bs ih =>
    have h1 : ¬ i + (bs.length + 1) < i := by omega
    have h2 : i + (bs.length + 1) ≠ i := by omega
    simp only [Memory.ofBytes, Memory.write, List.length_cons, h1, h2, if_false, List.cons_append]
    rw [← ih (i + 1), show i + 1 + bs.length = i + (bs.length + 1) by omega]

theorem Memory.keepBelow_ofBytes (i n : Nat) (bs : List Byte) (h : i + bs.length ≤ n) :
    (Memory.ofBytes i bs).keepBelow n = Memory.ofBytes i bs := by
  induction bs generalizing i with
  | nil => rfl
  | cons b bs ih =>
    simp only [List.length_cons] at h
    have h1 : i < n := by omega
    have := ih (i + 1) (by omega)
    simp only [Memory.keepBelow] at this
    simp [Memory.ofBytes, Memory.keepBelow, h1, this]

theorem Memory.read_keepBelow (m : Memory) {n a : Nat} (h : a < n) : (m.keepBelow n).read a = m.read a := by
  induction m with
  | nil => rfl
  | cons c m ih =>
    by_cases hc : c.1 < n
    · have e : Memory.keepBelow (c :: m) n = c :: Memory.keepBelow m n := by simp [Memory.keepBelow, hc]
      rw [e, Memory.read, Memory.read, ih]
    · have e : Memory.keepBelow (c :: m) n = Memory.keepBelow m n := by simp [Memory.keepBelow, hc]
      rw [e, Memory.read, ih, if_neg (by omega)]

@[simp] theorem Memory.keepBelow_zero (m : Memory) : m.keepBelow 0 = [] := by simp [Memory.keepBelow]

theorem Memory.bytes_cons_lt (c : Host.Cell) (m : Memory) (i n : Nat) (h : c.1 < i) :
    Memory.bytes (c :: m) i n = Memory.bytes m i n := by
  induction n generalizing i with
  | zero => rfl
  | succ n ih =>
    have : i ≠ c.1 := by omega
    simp only [Memory.bytes, Memory.read, this, if_false, ih (i + 1) (by omega)]

theorem Memory.bytes_ofBytes (i : Nat) (bs : List Byte) : (Memory.ofBytes i bs).bytes i bs.length = some bs := by
  induction bs generalizing i with
  | nil => rfl
  | cons b bs ih =>
    simp only [Memory.ofBytes, List.length_cons, Memory.bytes, Memory.read, if_true]
    rw [Memory.bytes_cons_lt _ _ _ _ (Nat.lt_succ_self i), ih]
    rfl

theorem Memory.bytes_length {m : Memory} {i n : Nat} {bs : List Byte} (h : m.bytes i n = some bs) :
    bs.length = n := by
  induction n generalizing i bs with
  | zero => simp [Memory.bytes] at h; simp [← h]
  | succ n ih =>
    simp only [Memory.bytes] at h
    split at h
    · exact absurd h (by simp)
    · obtain ⟨cs, hcs, rfl⟩ := Option.map_eq_some_iff.1 h
      simp [ih hcs]

/-- The bytes from an index up are the tail of the bytes before it. -/
theorem Memory.bytes_drop {m : Memory} {i n : Nat} {bs : List Byte} (h : m.bytes i n = some bs) (k : Nat)
    (hk : k ≤ n) : m.bytes (i + k) (n - k) = some (bs.drop k) := by
  induction k generalizing i n bs with
  | zero => simpa using h
  | succ k ih =>
    cases n with
    | zero => omega
    | succ n =>
      simp only [Memory.bytes] at h
      split at h
      · exact absurd h (by simp)
      · obtain ⟨cs, hcs, rfl⟩ := Option.map_eq_some_iff.1 h
        have := ih hcs (by omega)
        simpa [show i + 1 + k = i + (k + 1) by omega] using this

theorem Memory.bytes_write_outside (m : Memory) (a : Nat) (v : Byte) (i n : Nat) (h : a < i ∨ i + n ≤ a) :
    (m.write a v).bytes i n = m.bytes i n := by
  induction n generalizing i with
  | zero => rfl
  | succ n ih =>
    simp only [Memory.bytes]
    rw [Memory.read_write_other m a i v (by omega), ih (i + 1) (by omega)]

end Sys2Proof.Machine
end

