-- ==== Sys2Proof/Laws/State.lean ====
section
/-! SUPPORT. One lemma per field per state update (each true by rfl), so that no proof unfolds a record update. -/

namespace Sys2Proof.Machine

/-! ### begin -/

@[simp] theorem begin_cfg (s : State) : (begin s).cfg = s.cfg := rfl
@[simp] theorem begin_table (s : State) : (begin s).table = s.table := rfl
@[simp] theorem begin_op (s : State) : (begin s).op = s.op := rfl
@[simp] theorem begin_opWritten (s : State) : (begin s).opWritten = s.opWritten := rfl
@[simp] theorem begin_ilen (s : State) : (begin s).ilen = s.ilen := rfl
@[simp] theorem begin_ilenWritten (s : State) : (begin s).ilenWritten = s.ilenWritten := rfl
@[simp] theorem begin_ibuf (s : State) : (begin s).ibuf = s.ibuf := rfl
@[simp] theorem begin_done (s : State) : (begin s).done = false := rfl
@[simp] theorem begin_status (s : State) : (begin s).status = s.status := rfl
@[simp] theorem begin_olen (s : State) : (begin s).olen = s.olen := rfl
@[simp] theorem begin_obuf (s : State) : (begin s).obuf = [] := rfl
@[simp] theorem begin_crc (s : State) : (begin s).crc = SEED := rfl
@[simp] theorem begin_cur (s : State) : (begin s).cur = 0 := rfl
@[simp] theorem begin_wr (s : State) : (begin s).wr = 0 := rfl
@[simp] theorem begin_need (s : State) : (begin s).need = 0 := rfl
@[simp] theorem begin_cbuf (s : State) : (begin s).cbuf = [] := rfl
@[simp] theorem begin_ubuf (s : State) : (begin s).ubuf = [] := rfl
@[simp] theorem begin_phase (s : State) : (begin s).phase = s.phase := rfl
@[simp] theorem begin_draws (s : State) : (begin s).draws = s.draws := rfl

/-! ### startScan -/

@[simp] theorem startScan_cfg (s : State) : (startScan s).cfg = s.cfg := rfl
@[simp] theorem startScan_table (s : State) : (startScan s).table = s.table := rfl
@[simp] theorem startScan_op (s : State) : (startScan s).op = s.op := rfl
@[simp] theorem startScan_opWritten (s : State) : (startScan s).opWritten = s.opWritten := rfl
@[simp] theorem startScan_ilen (s : State) : (startScan s).ilen = s.ilen := rfl
@[simp] theorem startScan_ilenWritten (s : State) : (startScan s).ilenWritten = s.ilenWritten := rfl
@[simp] theorem startScan_ibuf (s : State) : (startScan s).ibuf = s.ibuf := rfl
@[simp] theorem startScan_done (s : State) : (startScan s).done = s.done := rfl
@[simp] theorem startScan_status (s : State) : (startScan s).status = s.status := rfl
@[simp] theorem startScan_olen (s : State) : (startScan s).olen = s.olen := rfl
@[simp] theorem startScan_obuf (s : State) : (startScan s).obuf = s.obuf := rfl
@[simp] theorem startScan_crc (s : State) : (startScan s).crc = s.crc := rfl
@[simp] theorem startScan_cur (s : State) : (startScan s).cur = 0 := rfl
@[simp] theorem startScan_wr (s : State) : (startScan s).wr = s.wr := rfl
@[simp] theorem startScan_need (s : State) : (startScan s).need = s.need := rfl
@[simp] theorem startScan_cbuf (s : State) : (startScan s).cbuf = s.cbuf := rfl
@[simp] theorem startScan_ubuf (s : State) : (startScan s).ubuf = s.ubuf := rfl
@[simp] theorem startScan_phase (s : State) : (startScan s).phase = s.phase := rfl
@[simp] theorem startScan_draws (s : State) : (startScan s).draws = s.draws := rfl

/-! ### startOutput -/

@[simp] theorem startOutput_cfg (s : State) : (startOutput s).cfg = s.cfg := rfl
@[simp] theorem startOutput_table (s : State) : (startOutput s).table = s.table := rfl
@[simp] theorem startOutput_op (s : State) : (startOutput s).op = s.op := rfl
@[simp] theorem startOutput_opWritten (s : State) : (startOutput s).opWritten = s.opWritten := rfl
@[simp] theorem startOutput_ilen (s : State) : (startOutput s).ilen = s.ilen := rfl
@[simp] theorem startOutput_ilenWritten (s : State) : (startOutput s).ilenWritten = s.ilenWritten := rfl
@[simp] theorem startOutput_ibuf (s : State) : (startOutput s).ibuf = s.ibuf := rfl
@[simp] theorem startOutput_done (s : State) : (startOutput s).done = s.done := rfl
@[simp] theorem startOutput_status (s : State) : (startOutput s).status = s.status := rfl
@[simp] theorem startOutput_olen (s : State) : (startOutput s).olen = s.olen := rfl
@[simp] theorem startOutput_obuf (s : State) : (startOutput s).obuf = s.obuf := rfl
@[simp] theorem startOutput_crc (s : State) : (startOutput s).crc = s.crc := rfl
@[simp] theorem startOutput_cur (s : State) : (startOutput s).cur = s.cur := rfl
@[simp] theorem startOutput_wr (s : State) : (startOutput s).wr = 0 := rfl
@[simp] theorem startOutput_need (s : State) : (startOutput s).need = s.need := rfl
@[simp] theorem startOutput_cbuf (s : State) : (startOutput s).cbuf = s.cbuf := rfl
@[simp] theorem startOutput_ubuf (s : State) : (startOutput s).ubuf = s.ubuf := rfl
@[simp] theorem startOutput_phase (s : State) : (startOutput s).phase = s.phase := rfl
@[simp] theorem startOutput_draws (s : State) : (startOutput s).draws = s.draws := rfl

/-! ### drawn -/

@[simp] theorem drawn_cfg (s : State) : (drawn s).cfg = s.cfg := rfl
@[simp] theorem drawn_table (s : State) : (drawn s).table = s.table := rfl
@[simp] theorem drawn_op (s : State) : (drawn s).op = s.op := rfl
@[simp] theorem drawn_opWritten (s : State) : (drawn s).opWritten = s.opWritten := rfl
@[simp] theorem drawn_ilen (s : State) : (drawn s).ilen = s.ilen := rfl
@[simp] theorem drawn_ilenWritten (s : State) : (drawn s).ilenWritten = s.ilenWritten := rfl
@[simp] theorem drawn_ibuf (s : State) : (drawn s).ibuf = s.ibuf := rfl
@[simp] theorem drawn_done (s : State) : (drawn s).done = s.done := rfl
@[simp] theorem drawn_status (s : State) : (drawn s).status = s.status := rfl
@[simp] theorem drawn_olen (s : State) : (drawn s).olen = s.olen := rfl
@[simp] theorem drawn_obuf (s : State) : (drawn s).obuf = s.obuf := rfl
@[simp] theorem drawn_crc (s : State) : (drawn s).crc = s.crc := rfl
@[simp] theorem drawn_cur (s : State) : (drawn s).cur = s.cur := rfl
@[simp] theorem drawn_wr (s : State) : (drawn s).wr = s.wr := rfl
@[simp] theorem drawn_need (s : State) : (drawn s).need = s.need := rfl
@[simp] theorem drawn_cbuf (s : State) : (drawn s).cbuf = s.cbuf := rfl
@[simp] theorem drawn_ubuf (s : State) : (drawn s).ubuf = s.ubuf := rfl
@[simp] theorem drawn_phase (s : State) : (drawn s).phase = s.phase := rfl
@[simp] theorem drawn_draws (s : State) : (drawn s).draws = s.draws + 1 := rfl

/-! ### finish -/

@[simp] theorem finish_cfg (st : Status) (s : State) : (finish st s).cfg = s.cfg := rfl
@[simp] theorem finish_table (st : Status) (s : State) : (finish st s).table = s.table := rfl
@[simp] theorem finish_op (st : Status) (s : State) : (finish st s).op = s.op := rfl
@[simp] theorem finish_opWritten (st : Status) (s : State) : (finish st s).opWritten = s.opWritten := rfl
@[simp] theorem finish_ilen (st : Status) (s : State) : (finish st s).ilen = s.ilen := rfl
@[simp] theorem finish_ilenWritten (st : Status) (s : State) : (finish st s).ilenWritten = s.ilenWritten := rfl
@[simp] theorem finish_ibuf (st : Status) (s : State) : (finish st s).ibuf = s.ibuf := rfl
@[simp] theorem finish_done (st : Status) (s : State) : (finish st s).done = true := rfl
@[simp] theorem finish_status (st : Status) (s : State) : (finish st s).status = st.code := rfl
@[simp] theorem finish_olen (st : Status) (s : State) : (finish st s).olen = if st.hasOutput then s.wr else 0 := rfl
@[simp] theorem finish_obuf (st : Status) (s : State) : (finish st s).obuf = s.obuf.keepBelow (if st.hasOutput then s.wr else 0) := rfl
@[simp] theorem finish_crc (st : Status) (s : State) : (finish st s).crc = Config.freeCrc s.draws := rfl
@[simp] theorem finish_cur (st : Status) (s : State) : (finish st s).cur = Config.freeCur s.draws := rfl
@[simp] theorem finish_wr (st : Status) (s : State) : (finish st s).wr = Config.freeWr s.draws := rfl
@[simp] theorem finish_need (st : Status) (s : State) : (finish st s).need = Config.freeNeed s.draws := rfl
@[simp] theorem finish_cbuf (st : Status) (s : State) : (finish st s).cbuf = [] := rfl
@[simp] theorem finish_ubuf (st : Status) (s : State) : (finish st s).ubuf = [] := rfl
@[simp] theorem finish_phase (st : Status) (s : State) : (finish st s).phase = .idle := rfl
@[simp] theorem finish_draws (st : Status) (s : State) : (finish st s).draws = s.draws + 1 := rfl

/-! ### withNeed -/

@[simp] theorem withNeed_cfg (n : Nat) (s : State) : (withNeed n s).cfg = s.cfg := rfl
@[simp] theorem withNeed_table (n : Nat) (s : State) : (withNeed n s).table = s.table := rfl
@[simp] theorem withNeed_op (n : Nat) (s : State) : (withNeed n s).op = s.op := rfl
@[simp] theorem withNeed_opWritten (n : Nat) (s : State) : (withNeed n s).opWritten = s.opWritten := rfl
@[simp] theorem withNeed_ilen (n : Nat) (s : State) : (withNeed n s).ilen = s.ilen := rfl
@[simp] theorem withNeed_ilenWritten (n : Nat) (s : State) : (withNeed n s).ilenWritten = s.ilenWritten := rfl
@[simp] theorem withNeed_ibuf (n : Nat) (s : State) : (withNeed n s).ibuf = s.ibuf := rfl
@[simp] theorem withNeed_done (n : Nat) (s : State) : (withNeed n s).done = s.done := rfl
@[simp] theorem withNeed_status (n : Nat) (s : State) : (withNeed n s).status = s.status := rfl
@[simp] theorem withNeed_olen (n : Nat) (s : State) : (withNeed n s).olen = s.olen := rfl
@[simp] theorem withNeed_obuf (n : Nat) (s : State) : (withNeed n s).obuf = s.obuf := rfl
@[simp] theorem withNeed_crc (n : Nat) (s : State) : (withNeed n s).crc = s.crc := rfl
@[simp] theorem withNeed_cur (n : Nat) (s : State) : (withNeed n s).cur = s.cur := rfl
@[simp] theorem withNeed_wr (n : Nat) (s : State) : (withNeed n s).wr = s.wr := rfl
@[simp] theorem withNeed_need (n : Nat) (s : State) : (withNeed n s).need = n := rfl
@[simp] theorem withNeed_cbuf (n : Nat) (s : State) : (withNeed n s).cbuf = s.cbuf := rfl
@[simp] theorem withNeed_ubuf (n : Nat) (s : State) : (withNeed n s).ubuf = s.ubuf := rfl
@[simp] theorem withNeed_phase (n : Nat) (s : State) : (withNeed n s).phase = s.phase := rfl
@[simp] theorem withNeed_draws (n : Nat) (s : State) : (withNeed n s).draws = s.draws := rfl

/-! ### advance -/

@[simp] theorem advance_cfg (n : Nat) (s : State) : (advance n s).cfg = s.cfg := rfl
@[simp] theorem advance_table (n : Nat) (s : State) : (advance n s).table = s.table := rfl
@[simp] theorem advance_op (n : Nat) (s : State) : (advance n s).op = s.op := rfl
@[simp] theorem advance_opWritten (n : Nat) (s : State) : (advance n s).opWritten = s.opWritten := rfl
@[simp] theorem advance_ilen (n : Nat) (s : State) : (advance n s).ilen = s.ilen := rfl
@[simp] theorem advance_ilenWritten (n : Nat) (s : State) : (advance n s).ilenWritten = s.ilenWritten := rfl
@[simp] theorem advance_ibuf (n : Nat) (s : State) : (advance n s).ibuf = s.ibuf := rfl
@[simp] theorem advance_done (n : Nat) (s : State) : (advance n s).done = s.done := rfl
@[simp] theorem advance_status (n : Nat) (s : State) : (advance n s).status = s.status := rfl
@[simp] theorem advance_olen (n : Nat) (s : State) : (advance n s).olen = s.olen := rfl
@[simp] theorem advance_obuf (n : Nat) (s : State) : (advance n s).obuf = s.obuf := rfl
@[simp] theorem advance_crc (n : Nat) (s : State) : (advance n s).crc = s.crc := rfl
@[simp] theorem advance_cur (n : Nat) (s : State) : (advance n s).cur = s.cur + n := rfl
@[simp] theorem advance_wr (n : Nat) (s : State) : (advance n s).wr = s.wr := rfl
@[simp] theorem advance_need (n : Nat) (s : State) : (advance n s).need = s.need := rfl
@[simp] theorem advance_cbuf (n : Nat) (s : State) : (advance n s).cbuf = s.cbuf := rfl
@[simp] theorem advance_ubuf (n : Nat) (s : State) : (advance n s).ubuf = s.ubuf := rfl
@[simp] theorem advance_phase (n : Nat) (s : State) : (advance n s).phase = s.phase := rfl
@[simp] theorem advance_draws (n : Nat) (s : State) : (advance n s).draws = s.draws := rfl

/-! ### withCbuf -/

@[simp] theorem withCbuf_cfg (bs : List Byte) (s : State) : (withCbuf bs s).cfg = s.cfg := rfl
@[simp] theorem withCbuf_table (bs : List Byte) (s : State) : (withCbuf bs s).table = s.table := rfl
@[simp] theorem withCbuf_op (bs : List Byte) (s : State) : (withCbuf bs s).op = s.op := rfl
@[simp] theorem withCbuf_opWritten (bs : List Byte) (s : State) : (withCbuf bs s).opWritten = s.opWritten := rfl
@[simp] theorem withCbuf_ilen (bs : List Byte) (s : State) : (withCbuf bs s).ilen = s.ilen := rfl
@[simp] theorem withCbuf_ilenWritten (bs : List Byte) (s : State) : (withCbuf bs s).ilenWritten = s.ilenWritten := rfl
@[simp] theorem withCbuf_ibuf (bs : List Byte) (s : State) : (withCbuf bs s).ibuf = s.ibuf := rfl
@[simp] theorem withCbuf_done (bs : List Byte) (s : State) : (withCbuf bs s).done = s.done := rfl
@[simp] theorem withCbuf_status (bs : List Byte) (s : State) : (withCbuf bs s).status = s.status := rfl
@[simp] theorem withCbuf_olen (bs : List Byte) (s : State) : (withCbuf bs s).olen = s.olen := rfl
@[simp] theorem withCbuf_obuf (bs : List Byte) (s : State) : (withCbuf bs s).obuf = s.obuf := rfl
@[simp] theorem withCbuf_crc (bs : List Byte) (s : State) : (withCbuf bs s).crc = s.crc := rfl
@[simp] theorem withCbuf_cur (bs : List Byte) (s : State) : (withCbuf bs s).cur = s.cur := rfl
@[simp] theorem withCbuf_wr (bs : List Byte) (s : State) : (withCbuf bs s).wr = s.wr := rfl
@[simp] theorem withCbuf_need (bs : List Byte) (s : State) : (withCbuf bs s).need = s.need := rfl
@[simp] theorem withCbuf_cbuf (bs : List Byte) (s : State) : (withCbuf bs s).cbuf = Memory.ofBytes 0 bs := rfl
@[simp] theorem withCbuf_ubuf (bs : List Byte) (s : State) : (withCbuf bs s).ubuf = s.ubuf := rfl
@[simp] theorem withCbuf_phase (bs : List Byte) (s : State) : (withCbuf bs s).phase = s.phase := rfl
@[simp] theorem withCbuf_draws (bs : List Byte) (s : State) : (withCbuf bs s).draws = s.draws := rfl

/-! ### inPhase -/

@[simp] theorem inPhase_cfg (p : Phase) (s : State) : (inPhase p s).cfg = s.cfg := rfl
@[simp] theorem inPhase_table (p : Phase) (s : State) : (inPhase p s).table = s.table := rfl
@[simp] theorem inPhase_op (p : Phase) (s : State) : (inPhase p s).op = s.op := rfl
@[simp] theorem inPhase_opWritten (p : Phase) (s : State) : (inPhase p s).opWritten = s.opWritten := rfl
@[simp] theorem inPhase_ilen (p : Phase) (s : State) : (inPhase p s).ilen = s.ilen := rfl
@[simp] theorem inPhase_ilenWritten (p : Phase) (s : State) : (inPhase p s).ilenWritten = s.ilenWritten := rfl
@[simp] theorem inPhase_ibuf (p : Phase) (s : State) : (inPhase p s).ibuf = s.ibuf := rfl
@[simp] theorem inPhase_done (p : Phase) (s : State) : (inPhase p s).done = s.done := rfl
@[simp] theorem inPhase_status (p : Phase) (s : State) : (inPhase p s).status = s.status := rfl
@[simp] theorem inPhase_olen (p : Phase) (s : State) : (inPhase p s).olen = s.olen := rfl
@[simp] theorem inPhase_obuf (p : Phase) (s : State) : (inPhase p s).obuf = s.obuf := rfl
@[simp] theorem inPhase_crc (p : Phase) (s : State) : (inPhase p s).crc = s.crc := rfl
@[simp] theorem inPhase_cur (p : Phase) (s : State) : (inPhase p s).cur = s.cur := rfl
@[simp] theorem inPhase_wr (p : Phase) (s : State) : (inPhase p s).wr = s.wr := rfl
@[simp] theorem inPhase_need (p : Phase) (s : State) : (inPhase p s).need = s.need := rfl
@[simp] theorem inPhase_cbuf (p : Phase) (s : State) : (inPhase p s).cbuf = s.cbuf := rfl
@[simp] theorem inPhase_ubuf (p : Phase) (s : State) : (inPhase p s).ubuf = s.ubuf := rfl
@[simp] theorem inPhase_phase (p : Phase) (s : State) : (inPhase p s).phase = p := rfl
@[simp] theorem inPhase_draws (p : Phase) (s : State) : (inPhase p s).draws = s.draws := rfl

/-! ### putOp -/

@[simp] theorem putOp_cfg (v : BitVec 3) (s : State) : (putOp v s).cfg = s.cfg := rfl
@[simp] theorem putOp_table (v : BitVec 3) (s : State) : (putOp v s).table = s.table := rfl
@[simp] theorem putOp_op (v : BitVec 3) (s : State) : (putOp v s).op = v := rfl
@[simp] theorem putOp_opWritten (v : BitVec 3) (s : State) : (putOp v s).opWritten = true := rfl
@[simp] theorem putOp_ilen (v : BitVec 3) (s : State) : (putOp v s).ilen = s.ilen := rfl
@[simp] theorem putOp_ilenWritten (v : BitVec 3) (s : State) : (putOp v s).ilenWritten = s.ilenWritten := rfl
@[simp] theorem putOp_ibuf (v : BitVec 3) (s : State) : (putOp v s).ibuf = s.ibuf := rfl
@[simp] theorem putOp_done (v : BitVec 3) (s : State) : (putOp v s).done = s.done := rfl
@[simp] theorem putOp_status (v : BitVec 3) (s : State) : (putOp v s).status = s.status := rfl
@[simp] theorem putOp_olen (v : BitVec 3) (s : State) : (putOp v s).olen = s.olen := rfl
@[simp] theorem putOp_obuf (v : BitVec 3) (s : State) : (putOp v s).obuf = s.obuf := rfl
@[simp] theorem putOp_crc (v : BitVec 3) (s : State) : (putOp v s).crc = s.crc := rfl
@[simp] theorem putOp_cur (v : BitVec 3) (s : State) : (putOp v s).cur = s.cur := rfl
@[simp] theorem putOp_wr (v : BitVec 3) (s : State) : (putOp v s).wr = s.wr := rfl
@[simp] theorem putOp_need (v : BitVec 3) (s : State) : (putOp v s).need = s.need := rfl
@[simp] theorem putOp_cbuf (v : BitVec 3) (s : State) : (putOp v s).cbuf = s.cbuf := rfl
@[simp] theorem putOp_ubuf (v : BitVec 3) (s : State) : (putOp v s).ubuf = s.ubuf := rfl
@[simp] theorem putOp_phase (v : BitVec 3) (s : State) : (putOp v s).phase = s.phase := rfl
@[simp] theorem putOp_draws (v : BitVec 3) (s : State) : (putOp v s).draws = s.draws := rfl

/-! ### putIlen -/

@[simp] theorem putIlen_cfg (n : Nat) (s : State) : (putIlen n s).cfg = s.cfg := rfl
@[simp] theorem putIlen_table (n : Nat) (s : State) : (putIlen n s).table = s.table := rfl
@[simp] theorem putIlen_op (n : Nat) (s : State) : (putIlen n s).op = s.op := rfl
@[simp] theorem putIlen_opWritten (n : Nat) (s : State) : (putIlen n s).opWritten = s.opWritten := rfl
@[simp] theorem putIlen_ilen (n : Nat) (s : State) : (putIlen n s).ilen = n := rfl
@[simp] theorem putIlen_ilenWritten (n : Nat) (s : State) : (putIlen n s).ilenWritten = true := rfl
@[simp] theorem putIlen_ibuf (n : Nat) (s : State) : (putIlen n s).ibuf = s.ibuf := rfl
@[simp] theorem putIlen_done (n : Nat) (s : State) : (putIlen n s).done = s.done := rfl
@[simp] theorem putIlen_status (n : Nat) (s : State) : (putIlen n s).status = s.status := rfl
@[simp] theorem putIlen_olen (n : Nat) (s : State) : (putIlen n s).olen = s.olen := rfl
@[simp] theorem putIlen_obuf (n : Nat) (s : State) : (putIlen n s).obuf = s.obuf := rfl
@[simp] theorem putIlen_crc (n : Nat) (s : State) : (putIlen n s).crc = s.crc := rfl
@[simp] theorem putIlen_cur (n : Nat) (s : State) : (putIlen n s).cur = s.cur := rfl
@[simp] theorem putIlen_wr (n : Nat) (s : State) : (putIlen n s).wr = s.wr := rfl
@[simp] theorem putIlen_need (n : Nat) (s : State) : (putIlen n s).need = s.need := rfl
@[simp] theorem putIlen_cbuf (n : Nat) (s : State) : (putIlen n s).cbuf = s.cbuf := rfl
@[simp] theorem putIlen_ubuf (n : Nat) (s : State) : (putIlen n s).ubuf = s.ubuf := rfl
@[simp] theorem putIlen_phase (n : Nat) (s : State) : (putIlen n s).phase = s.phase := rfl
@[simp] theorem putIlen_draws (n : Nat) (s : State) : (putIlen n s).draws = s.draws := rfl

/-! ### putIbuf -/

@[simp] theorem putIbuf_cfg (i : Nat) (b : Byte) (s : State) : (putIbuf i b s).cfg = s.cfg := rfl
@[simp] theorem putIbuf_table (i : Nat) (b : Byte) (s : State) : (putIbuf i b s).table = s.table := rfl
@[simp] theorem putIbuf_op (i : Nat) (b : Byte) (s : State) : (putIbuf i b s).op = s.op := rfl
@[simp] theorem putIbuf_opWritten (i : Nat) (b : Byte) (s : State) : (putIbuf i b s).opWritten = s.opWritten := rfl
@[simp] theorem putIbuf_ilen (i : Nat) (b : Byte) (s : State) : (putIbuf i b s).ilen = s.ilen := rfl
@[simp] theorem putIbuf_ilenWritten (i : Nat) (b : Byte) (s : State) : (putIbuf i b s).ilenWritten = s.ilenWritten := rfl
@[simp] theorem putIbuf_ibuf (i : Nat) (b : Byte) (s : State) : (putIbuf i b s).ibuf = s.ibuf.write i b := rfl
@[simp] theorem putIbuf_done (i : Nat) (b : Byte) (s : State) : (putIbuf i b s).done = s.done := rfl
@[simp] theorem putIbuf_status (i : Nat) (b : Byte) (s : State) : (putIbuf i b s).status = s.status := rfl
@[simp] theorem putIbuf_olen (i : Nat) (b : Byte) (s : State) : (putIbuf i b s).olen = s.olen := rfl
@[simp] theorem putIbuf_obuf (i : Nat) (b : Byte) (s : State) : (putIbuf i b s).obuf = s.obuf := rfl
@[simp] theorem putIbuf_crc (i : Nat) (b : Byte) (s : State) : (putIbuf i b s).crc = s.crc := rfl
@[simp] theorem putIbuf_cur (i : Nat) (b : Byte) (s : State) : (putIbuf i b s).cur = s.cur := rfl
@[simp] theorem putIbuf_wr (i : Nat) (b : Byte) (s : State) : (putIbuf i b s).wr = s.wr := rfl
@[simp] theorem putIbuf_need (i : Nat) (b : Byte) (s : State) : (putIbuf i b s).need = s.need := rfl
@[simp] theorem putIbuf_cbuf (i : Nat) (b : Byte) (s : State) : (putIbuf i b s).cbuf = s.cbuf := rfl
@[simp] theorem putIbuf_ubuf (i : Nat) (b : Byte) (s : State) : (putIbuf i b s).ubuf = s.ubuf := rfl
@[simp] theorem putIbuf_phase (i : Nat) (b : Byte) (s : State) : (putIbuf i b s).phase = s.phase := rfl
@[simp] theorem putIbuf_draws (i : Nat) (b : Byte) (s : State) : (putIbuf i b s).draws = s.draws := rfl

/-! ### State.resetWith -/

@[simp] theorem State.resetWith_cfg (c : Config) (n : Nat) : (State.resetWith c n).cfg = c := rfl
@[simp] theorem State.resetWith_table (c : Config) (n : Nat) : (State.resetWith c n).table = .rom := rfl
@[simp] theorem State.resetWith_op (c : Config) (n : Nat) : (State.resetWith c n).op = 0 := rfl
@[simp] theorem State.resetWith_opWritten (c : Config) (n : Nat) : (State.resetWith c n).opWritten = false := rfl
@[simp] theorem State.resetWith_ilen (c : Config) (n : Nat) : (State.resetWith c n).ilen = 0 := rfl
@[simp] theorem State.resetWith_ilenWritten (c : Config) (n : Nat) : (State.resetWith c n).ilenWritten = false := rfl
@[simp] theorem State.resetWith_ibuf (c : Config) (n : Nat) : (State.resetWith c n).ibuf = [] := rfl
@[simp] theorem State.resetWith_done (c : Config) (n : Nat) : (State.resetWith c n).done = false := rfl
@[simp] theorem State.resetWith_status (c : Config) (n : Nat) : (State.resetWith c n).status = 0 := rfl
@[simp] theorem State.resetWith_olen (c : Config) (n : Nat) : (State.resetWith c n).olen = 0 := rfl
@[simp] theorem State.resetWith_obuf (c : Config) (n : Nat) : (State.resetWith c n).obuf = [] := rfl
@[simp] theorem State.resetWith_crc (c : Config) (n : Nat) : (State.resetWith c n).crc = 0 := rfl
@[simp] theorem State.resetWith_cur (c : Config) (n : Nat) : (State.resetWith c n).cur = 0 := rfl
@[simp] theorem State.resetWith_wr (c : Config) (n : Nat) : (State.resetWith c n).wr = 0 := rfl
@[simp] theorem State.resetWith_need (c : Config) (n : Nat) : (State.resetWith c n).need = 0 := rfl
@[simp] theorem State.resetWith_cbuf (c : Config) (n : Nat) : (State.resetWith c n).cbuf = [] := rfl
@[simp] theorem State.resetWith_ubuf (c : Config) (n : Nat) : (State.resetWith c n).ubuf = [] := rfl
@[simp] theorem State.resetWith_phase (c : Config) (n : Nat) : (State.resetWith c n).phase = .idle := rfl
@[simp] theorem State.resetWith_draws (c : Config) (n : Nat) : (State.resetWith c n).draws = n := rfl

/-! ### What keeps the command -/

@[simp] theorem SameCommand.refl (s : State) : SameCommand s s := ⟨rfl, rfl, rfl, rfl, rfl, rfl, rfl⟩

theorem SameCommand.trans {s t u : State} (h : SameCommand s t) (k : SameCommand t u) : SameCommand s u :=
  ⟨k.cfg.trans h.cfg, k.table.trans h.table, k.op.trans h.op, k.opWritten.trans h.opWritten, k.ilen.trans h.ilen,
    k.ilenWritten.trans h.ilenWritten, k.ibuf.trans h.ibuf⟩

theorem begin_sameCommand (s : State) : SameCommand s (begin s) := ⟨rfl, rfl, rfl, rfl, rfl, rfl, rfl⟩

theorem finish_sameCommand (st : Status) (s : State) : SameCommand s (finish st s) :=
  ⟨rfl, rfl, rfl, rfl, rfl, rfl, rfl⟩

end Sys2Proof.Machine
end

