-- ==== Sys2Proof/Laws/Ops.lean ====
section
/-! SUPPORT. What each shared operation does, said once: sequencing, the capacity, the byte writes, reading the
operand, and the end of an operation. -/

namespace Sys2Proof.Machine

/-! ### Sequencing -/

@[simp] theorem andThen_next (s : State) (k : State → Result) : andThen (.next s) k = k s := rfl
@[simp] theorem andThen_fault (f : Fault) (k : State → Result) : andThen (.fault f) k = .fault f := rfl
@[simp] theorem andThen_refused (r : Refusal) (k : State → Result) : andThen (.refused r) k = .refused r := rfl

/-- A sequence answers a next state only through one. -/
theorem andThen_eq_next {r : Result} {k : State → Result} {t : State} (h : andThen r k = .next t) :
    ∃ s, r = .next s ∧ k s = .next t := by
  cases r with
  | next s => exact ⟨s, rfl, h⟩
  | fault f => simp at h
  | refused q => simp at h

/-! ### Capacity -/

/-- What is no longer than something that fits, fits. -/
theorem fits_mono {c : Config} {m n : Nat} (h : m ≤ n) (hn : fits c n = true) : fits c m = true := by
  obtain ⟨cap⟩ := c
  cases cap with
  | none => rfl
  | some k => simp only [fits, decide_eq_true_eq] at *; omega

/-! ### Codes -/

@[simp] theorem Status.ofCode_code (st : Status) : Status.ofCode st.code = st := by cases st <;> decide

@[simp] theorem Status.code_ofCode (c : BitVec 2) : (Status.ofCode c).code = c := by revert c; decide

/-! ### The operand -/

theorem withInput_ready {s : State} {inp : List Byte} (h : s.Ready inp) (body : List Byte → State → Result) :
    withInput s body = body inp (begin s) := by
  simp [withInput, readInput, h.idle, h.ilenWritten, h.ilenFits, h.input]

/-- A command that answers a next state was ready on some input. -/
theorem withInput_next {s t : State} {body : List Byte → State → Result} (h : withInput s body = .next t) :
    ∃ inp, s.Ready inp ∧ body inp (begin s) = .next t := by
  unfold withInput readInput at h
  split at h
  · rename_i inp hr
    split at hr <;> try (simp at hr)
    rename_i hp
    split at hr <;> try (simp at hr)
    rename_i hw
    split at hr <;> try (simp at hr)
    rename_i hf
    split at hr
    · simp at hr; subst hr
      rename_i hb
      exact ⟨_, ⟨hp, hw, hf, hb⟩, h⟩
    · simp at hr
  · simp at h

theorem Ready_length {s : State} {inp : List Byte} (h : s.Ready inp) : inp.length = s.ilen :=
  Memory.bytes_length h.input

/-- A state with the same command registers is ready on the same input, once no operation is in progress. -/
theorem Ready_of_sameCommand {s t : State} {inp : List Byte} (h : s.Ready inp) (k : SameCommand s t)
    (hp : t.phase = .idle) : t.Ready inp :=
  ⟨hp, by rw [k.ilenWritten]; exact h.ilenWritten, by rw [k.cfg, k.ilen]; exact h.ilenFits,
    by rw [k.ibuf, k.ilen]; exact h.input⟩

/-! ### Byte writes -/

/-- The state after an output pass has appended `bs` to what `k` holds. -/
def appended (k : Sink) (bs : List Byte) (s : State) : State :=
  match k with
  | .obuf => { s with obuf := Memory.ofBytes 0 (s.obuf.values ++ bs), wr := s.wr + bs.length }
  | .ubuf => { s with ubuf := Memory.ofBytes 0 (s.ubuf.values ++ bs), wr := s.wr + bs.length }

/-- The space a sink writes. -/
def sinkMemory (k : Sink) (s : State) : Memory :=
  match k with
  | .obuf => s.obuf
  | .ubuf => s.ubuf

theorem appended_nil {k : Sink} {s : State} (h : (sinkMemory k s).Exactly s.wr) : appended k [] s = s := by
  have e := (Memory.Exactly.eq_ofBytes h).1.symm
  cases k with
  | obuf => simp [appended, show Memory.ofBytes 0 s.obuf.values = s.obuf from e]
  | ubuf => simp [appended, show Memory.ofBytes 0 s.ubuf.values = s.ubuf from e]

theorem appended_exactly {k : Sink} {s : State} (h : (sinkMemory k s).Exactly s.wr) (bs : List Byte) :
    (sinkMemory k (appended k bs s)).Exactly (appended k bs s).wr := by
  have hl := (Memory.Exactly.eq_ofBytes h).2
  cases k with
  | obuf =>
    have := Memory.ofBytes_exactly (s.obuf.values ++ bs)
    simpa [appended, sinkMemory, show s.obuf.values.length = s.wr from hl] using this
  | ubuf =>
    have := Memory.ofBytes_exactly (s.ubuf.values ++ bs)
    simpa [appended, sinkMemory, show s.ubuf.values.length = s.wr from hl] using this

@[simp] theorem appended_appended (k : Sink) (as bs : List Byte) (s : State) :
    appended k bs (appended k as s) = appended k (as ++ bs) s := by
  cases k <;> simp [appended, Nat.add_assoc]

/-- One byte write, where the sink holds exactly the bytes written so far and there is room. -/
theorem emit_exactly {k : Sink} {b : Byte} {s : State} (h : (sinkMemory k s).Exactly s.wr)
    (hf : fits s.cfg (s.wr + 1) = true) : emit k b s = .next (appended k [b] s) := by
  obtain ⟨hm, hl⟩ := Memory.Exactly.eq_ofBytes h
  have hw := Memory.write_ofBytes_end 0 (sinkMemory k s).values b
  rw [← hm, hl, Nat.zero_add] at hw
  cases k with
  | obuf => simp only [emit, indexExists, hf, if_true, appended]; rw [show s.obuf.write s.wr b = _ from hw]; rfl
  | ubuf => simp only [emit, indexExists, hf, if_true, appended]; rw [show s.ubuf.write s.wr b = _ from hw]; rfl

@[simp] theorem appended_wr (k : Sink) (bs : List Byte) (s : State) : (appended k bs s).wr = s.wr + bs.length := by
  cases k <;> rfl

@[simp] theorem appended_cfg (k : Sink) (bs : List Byte) (s : State) : (appended k bs s).cfg = s.cfg := by
  cases k <;> rfl

@[simp] theorem appended_table (k : Sink) (bs : List Byte) (s : State) : (appended k bs s).table = s.table := by
  cases k <;> rfl

@[simp] theorem appended_op (k : Sink) (bs : List Byte) (s : State) : (appended k bs s).op = s.op := by
  cases k <;> rfl

@[simp] theorem appended_opWritten (k : Sink) (bs : List Byte) (s : State) : (appended k bs s).opWritten = s.opWritten := by
  cases k <;> rfl

@[simp] theorem appended_ilen (k : Sink) (bs : List Byte) (s : State) : (appended k bs s).ilen = s.ilen := by
  cases k <;> rfl

@[simp] theorem appended_ilenWritten (k : Sink) (bs : List Byte) (s : State) : (appended k bs s).ilenWritten = s.ilenWritten := by
  cases k <;> rfl

@[simp] theorem appended_ibuf (k : Sink) (bs : List Byte) (s : State) : (appended k bs s).ibuf = s.ibuf := by
  cases k <;> rfl

@[simp] theorem appended_done (k : Sink) (bs : List Byte) (s : State) : (appended k bs s).done = s.done := by
  cases k <;> rfl

@[simp] theorem appended_status (k : Sink) (bs : List Byte) (s : State) : (appended k bs s).status = s.status := by
  cases k <;> rfl

@[simp] theorem appended_olen (k : Sink) (bs : List Byte) (s : State) : (appended k bs s).olen = s.olen := by
  cases k <;> rfl

@[simp] theorem appended_crc (k : Sink) (bs : List Byte) (s : State) : (appended k bs s).crc = s.crc := by
  cases k <;> rfl

@[simp] theorem appended_cur (k : Sink) (bs : List Byte) (s : State) : (appended k bs s).cur = s.cur := by
  cases k <;> rfl

@[simp] theorem appended_need (k : Sink) (bs : List Byte) (s : State) : (appended k bs s).need = s.need := by
  cases k <;> rfl

@[simp] theorem appended_cbuf (k : Sink) (bs : List Byte) (s : State) : (appended k bs s).cbuf = s.cbuf := by
  cases k <;> rfl

@[simp] theorem appended_phase (k : Sink) (bs : List Byte) (s : State) : (appended k bs s).phase = s.phase := by
  cases k <;> rfl

@[simp] theorem appended_draws (k : Sink) (bs : List Byte) (s : State) : (appended k bs s).draws = s.draws := by
  cases k <;> rfl

@[simp] theorem appended_obuf_obuf (bs : List Byte) (s : State) :
    (appended .obuf bs s).obuf = Memory.ofBytes 0 (s.obuf.values ++ bs) := rfl

@[simp] theorem appended_obuf_ubuf (bs : List Byte) (s : State) : (appended .obuf bs s).ubuf = s.ubuf := rfl

@[simp] theorem appended_ubuf_ubuf (bs : List Byte) (s : State) :
    (appended .ubuf bs s).ubuf = Memory.ofBytes 0 (s.ubuf.values ++ bs) := rfl

@[simp] theorem appended_ubuf_obuf (bs : List Byte) (s : State) : (appended .ubuf bs s).obuf = s.obuf := rfl

/-- An output pass that fits appends its bytes. -/
theorem emitAll_exactly {k : Sink} (bs : List Byte) {s : State} (h : (sinkMemory k s).Exactly s.wr)
    (hf : fits s.cfg (s.wr + bs.length) = true) : emitAll k bs s = .next (appended k bs s) := by
  induction bs generalizing s with
  | nil => rw [appended_nil h]; rfl
  | cons b bs ih =>
    have h1 : fits s.cfg (s.wr + 1) = true := fits_mono (by simp) hf
    rw [emitAll, emit_exactly h h1, andThen_next, ih (appended_exactly h [b])]
    · simp
    · simpa [Nat.add_assoc, Nat.add_comm 1] using hf

/-- An output pass into OBUF, whatever OBUF holds: where its bytes have room they stand from the write index up, every
other byte is as it was, and nothing else changes. -/
theorem emitAll_obuf (bs : List Byte) {s : State} (hf : fits s.cfg (s.wr + bs.length) = true) :
    ∃ m : Memory, emitAll .obuf bs s = .next { s with obuf := m, wr := s.wr + bs.length } ∧
      ∀ a, m.read a = if a < s.wr then s.obuf.read a else (bs[a - s.wr]?).or (s.obuf.read a) := by
  induction bs generalizing s with
  | nil => exact ⟨s.obuf, rfl, fun a => by simp⟩
  | cons b bs ih =>
    have h1 : fits s.cfg (s.wr + 1) = true := fits_mono (by simp) hf
    obtain ⟨m, hm, hr⟩ := ih (s := { s with obuf := s.obuf.write s.wr b, wr := s.wr + 1 })
      (by simpa [Nat.add_assoc, Nat.add_comm 1] using hf)
    refine ⟨m, ?_, fun a => ?_⟩
    · rw [emitAll, emit, indexExists, if_pos h1, andThen_next, hm]
      simp [Nat.add_assoc, Nat.add_comm 1]
    · rw [hr]
      rcases Nat.lt_trichotomy a s.wr with ha | ha | ha
      · simp [ha, show a < s.wr + 1 by omega, Memory.read_write_other _ _ _ _ (Nat.ne_of_lt ha)]
      · subst ha; simp [Memory.read_write_same]
      · have h2 : ¬ a < s.wr + 1 := by omega
        have h3 : ¬ a < s.wr := by omega
        have h4 : a - s.wr = (a - (s.wr + 1)) + 1 := by omega
        simp [h2, h3, h4, Memory.read_write_other _ _ _ _ (Nat.ne_of_gt ha)]

/-! ### The capacity test -/

theorem ifFits_yes {s : State} (h : fits s.cfg s.need = true) (body : State → Result) : ifFits body s = body s := by
  simp [ifFits, h]

theorem ifFits_no {s : State} (h : fits s.cfg s.need = false) (body : State → Result) :
    ifFits body s = complete .allocationFailure s := by
  simp [ifFits, h]

/-! ### CBUF -/

theorem storeCbuf_fits {s : State} {bs : List Byte} (h : fits s.cfg bs.length = true) :
    storeCbuf bs s = .next (withCbuf bs s) := by
  simp [storeCbuf, h]

/-- A write of CBUF that answers a next state keeps CBUF within its `CAP` bytes. -/
theorem storeCbuf_inside {s t : State} {bs : List Byte} (h : storeCbuf bs s = .next t) :
    ∀ i ∈ t.cbuf.indices, indexExists t.cfg i = true := by
  unfold storeCbuf at h
  split at h
  · rename_i hf
    cases h
    intro i hi
    rw [withCbuf_cbuf, Memory.ofBytes_indices, List.mem_range'_1] at hi
    exact fits_mono (by omega) hf
  · cases h

/-! ### The end of an operation -/

/-- The response of an operation that completes holding exactly the output `out` in OBUF. -/
theorem finish_response (st : Status) {s : State} (h : s.obuf.Exactly s.wr) :
    (finish st s).response = some (st, if st.hasOutput then s.obuf.values else []) := by
  obtain ⟨hm, hl⟩ := Memory.Exactly.eq_ofBytes h
  cases ho : st.hasOutput with
  | false => simp [State.response, ho, Memory.bytes]
  | true =>
    have hb : s.obuf.keepBelow s.wr = s.obuf := by
      rw [hm]; exact Memory.keepBelow_ofBytes 0 s.wr _ (by omega)
    have := Memory.bytes_ofBytes 0 s.obuf.values
    rw [← hm, hl] at this
    simp [State.response, ho, hb, this]

/-- A result without output needs nothing of OBUF. -/
theorem finish_response_empty (st : Status) (s : State) (h : st.hasOutput = false) :
    (finish st s).response = some (st, []) := by
  simp [State.response, h, Memory.bytes]

end Sys2Proof.Machine
end

