-- ==== Sys2Proof/Laws/Passes.lean ====
section
/-! SUPPORT. What each pass over a byte sequence does to the registers, in one equation: the checksum pass, the
Escaper's output pass and the Unescaper's. -/

namespace Sys2Proof.Machine

/-! ### The checksum pass -/

theorem checksumPass_eq (bs : List Byte) (s : State) :
    checksumPass bs s = { s with crc := bs.foldl (crcStep s.table) s.crc, cur := s.cur + bs.length } := by
  induction bs generalizing s with
  | nil => rfl
  | cons b bs ih => simp [checksumPass, ih, Nat.add_assoc, Nat.add_comm 1]

theorem runChecksum_eq (bs : List Byte) (s : State) :
    runChecksum bs s = { s with crc := bs.foldl (crcStep s.table) SEED, cur := bs.length } := by
  simp [runChecksum, checksumPass_eq, startScan]

@[simp] theorem runChecksum_cfg (bs : List Byte) (s : State) :
    (runChecksum bs s).cfg = s.cfg := by rw [runChecksum_eq]

@[simp] theorem runChecksum_table (bs : List Byte) (s : State) :
    (runChecksum bs s).table = s.table := by rw [runChecksum_eq]

@[simp] theorem runChecksum_op (bs : List Byte) (s : State) :
    (runChecksum bs s).op = s.op := by rw [runChecksum_eq]

@[simp] theorem runChecksum_opWritten (bs : List Byte) (s : State) :
    (runChecksum bs s).opWritten = s.opWritten := by rw [runChecksum_eq]

@[simp] theorem runChecksum_ilen (bs : List Byte) (s : State) :
    (runChecksum bs s).ilen = s.ilen := by rw [runChecksum_eq]

@[simp] theorem runChecksum_ilenWritten (bs : List Byte) (s : State) :
    (runChecksum bs s).ilenWritten = s.ilenWritten := by rw [runChecksum_eq]

@[simp] theorem runChecksum_ibuf (bs : List Byte) (s : State) :
    (runChecksum bs s).ibuf = s.ibuf := by rw [runChecksum_eq]

@[simp] theorem runChecksum_done (bs : List Byte) (s : State) :
    (runChecksum bs s).done = s.done := by rw [runChecksum_eq]

@[simp] theorem runChecksum_status (bs : List Byte) (s : State) :
    (runChecksum bs s).status = s.status := by rw [runChecksum_eq]

@[simp] theorem runChecksum_olen (bs : List Byte) (s : State) :
    (runChecksum bs s).olen = s.olen := by rw [runChecksum_eq]

@[simp] theorem runChecksum_obuf (bs : List Byte) (s : State) :
    (runChecksum bs s).obuf = s.obuf := by rw [runChecksum_eq]

@[simp] theorem runChecksum_crc (bs : List Byte) (s : State) :
    (runChecksum bs s).crc = bs.foldl (crcStep s.table) SEED := by rw [runChecksum_eq]

@[simp] theorem runChecksum_cur (bs : List Byte) (s : State) :
    (runChecksum bs s).cur = bs.length := by rw [runChecksum_eq]

@[simp] theorem runChecksum_wr (bs : List Byte) (s : State) :
    (runChecksum bs s).wr = s.wr := by rw [runChecksum_eq]

@[simp] theorem runChecksum_need (bs : List Byte) (s : State) :
    (runChecksum bs s).need = s.need := by rw [runChecksum_eq]

@[simp] theorem runChecksum_cbuf (bs : List Byte) (s : State) :
    (runChecksum bs s).cbuf = s.cbuf := by rw [runChecksum_eq]

@[simp] theorem runChecksum_ubuf (bs : List Byte) (s : State) :
    (runChecksum bs s).ubuf = s.ubuf := by rw [runChecksum_eq]

@[simp] theorem runChecksum_phase (bs : List Byte) (s : State) :
    (runChecksum bs s).phase = s.phase := by rw [runChecksum_eq]

@[simp] theorem runChecksum_draws (bs : List Byte) (s : State) :
    (runChecksum bs s).draws = s.draws := by rw [runChecksum_eq]

/-- The engine on the registers gives the function `crc16`: the table has one content. -/
@[simp] theorem checksumResult_runChecksum (bs : List Byte) (s : State) :
    checksumResult (runChecksum bs s) = crc16 bs := by
  rw [runChecksum_eq, checksumResult, crc16]

/-! ### The Escaper's output pass -/

/-- One byte of the Escaper's output pass. -/
theorem escapePass_byte {b : Byte} {s : State} (h : s.obuf.Exactly s.wr)
    (hf : fits s.cfg (s.wr + (escapeByte b).length) = true) :
    (if isReserved b then andThen (emit .obuf ESC s) (emit .obuf (b ^^^ MASK)) else emit .obuf b s) =
      .next (appended .obuf (escapeByte b) s) := by
  by_cases hr : isReserved b
  · simp only [escapeByte, hr, if_true, List.length_cons, List.length_nil] at hf ⊢
    rw [emit_exactly (k := .obuf) h (fits_mono (by omega) hf), andThen_next,
      emit_exactly (k := .obuf) (appended_exactly (k := .obuf) h [ESC])]
    · rw [appended_appended]; rfl
    · simpa using hf
  · simp only [escapeByte, hr, if_false, Bool.false_eq_true] at hf ⊢
    rw [emit_exactly (k := .obuf) h (by simpa using hf)]

/-- The output pass, where its bytes fit: it appends `escape bs` and moves the cursor over `bs`. -/
theorem escapePass_eq (bs : List Byte) {s : State} (h : s.obuf.Exactly s.wr)
    (hf : fits s.cfg (s.wr + (escape bs).length) = true) :
    escapePass bs s = .next (advance bs.length (appended .obuf (escape bs) s)) := by
  induction bs generalizing s with
  | nil =>
    rw [escape, appended_nil (k := .obuf) h, escapePass]; rfl
  | cons b bs ih =>
    have hl : (escape (b :: bs)).length = (escapeByte b).length + (escape bs).length := by simp [escape]
    rw [hl] at hf
    rw [escapePass, escapePass_byte h (fits_mono (by omega) hf), andThen_next]
    have he := appended_exactly (k := .obuf) h (escapeByte b)
    rw [ih (s := advance 1 (appended .obuf (escapeByte b) s))]
    · simp [advance, appended, escape, Nat.add_assoc, Nat.add_comm 1]
    · exact he
    · simpa [appended, Nat.add_assoc] using hf

/-! ### The Unescaper's output pass -/

theorem unescape_cons_data {b : Byte} (h : b ≠ ESC) (rest : List Byte) :
    unescape (b :: rest) = (unescape rest).map (b :: ·) := by
  rw [unescape.eq_def]; exact if_neg h

theorem unescape_cons_pair (v : Byte) (rest : List Byte) :
    unescape (ESC :: v :: rest) = (unescape rest).map ((v ^^^ MASK) :: ·) := by
  rw [unescape.eq_def]; exact if_pos rfl

theorem unescape_lone : unescape [ESC] = none := rfl

theorem scanPass_cons_data {b : Byte} (h : b ≠ ESC) (k : Sink) (tr en : State → Result) (rest : List Byte)
    (s : State) : scanPass k tr en (b :: rest) s = andThen (consumeByte k b s) (scanPass k tr en rest) := by
  rw [scanPass.eq_def]; exact if_neg h

theorem scanPass_cons_pair (k : Sink) (tr en : State → Result) (v : Byte) (rest : List Byte) (s : State) :
    scanPass k tr en (ESC :: v :: rest) s = andThen (consumePair k v s) (scanPass k tr en rest) := by
  rw [scanPass.eq_def]; exact if_pos rfl

theorem consumeByte_exactly {k : Sink} {b : Byte} {s : State} (h : (sinkMemory k s).Exactly s.wr)
    (hf : fits s.cfg (s.wr + 1) = true) :
    consumeByte k b s = .next (advance 1 (appended k [b] s)) := by
  rw [consumeByte, emit_exactly h hf]; cases k <;> rfl

theorem consumePair_exactly {k : Sink} {v : Byte} {s : State} (h : (sinkMemory k s).Exactly s.wr)
    (hf : fits s.cfg (s.wr + 1) = true) :
    consumePair k v s = .next (advance 2 (appended k [v ^^^ MASK] s)) := by
  rw [consumePair, emit_exactly h hf]; cases k <;> rfl

/-- The state after a scan has consumed the rest of its input, `n` bytes, and emitted `out`. -/
def scanned (k : Sink) (n : Nat) (out : List Byte) (s : State) : State :=
  advance n (appended k out s)

theorem scanned_scanned (k : Sink) (m n : Nat) (as bs : List Byte) (s : State) :
    scanned k n bs (scanned k m as s) = scanned k (m + n) (as ++ bs) s := by
  cases k <;> simp [scanned, appended, advance, Nat.add_assoc]

theorem scanned_exactly {k : Sink} {s : State} (h : (sinkMemory k s).Exactly s.wr) (n : Nat) (bs : List Byte) :
    (sinkMemory k (scanned k n bs s)).Exactly (scanned k n bs s).wr := by
  have := appended_exactly h bs
  cases k <;> exact this

@[simp] theorem scanned_wr (k : Sink) (n : Nat) (bs : List Byte) (s : State) :
    (scanned k n bs s).wr = s.wr + bs.length := by cases k <;> rfl

@[simp] theorem scanned_cfg (k : Sink) (n : Nat) (bs : List Byte) (s : State) :
    (scanned k n bs s).cfg = s.cfg := by cases k <;> rfl

@[simp] theorem scanned_table (k : Sink) (n : Nat) (bs : List Byte) (s : State) :
    (scanned k n bs s).table = s.table := by cases k <;> rfl

@[simp] theorem scanned_op (k : Sink) (n : Nat) (bs : List Byte) (s : State) :
    (scanned k n bs s).op = s.op := by cases k <;> rfl

@[simp] theorem scanned_opWritten (k : Sink) (n : Nat) (bs : List Byte) (s : State) :
    (scanned k n bs s).opWritten = s.opWritten := by cases k <;> rfl

@[simp] theorem scanned_ilen (k : Sink) (n : Nat) (bs : List Byte) (s : State) :
    (scanned k n bs s).ilen = s.ilen := by cases k <;> rfl

@[simp] theorem scanned_ilenWritten (k : Sink) (n : Nat) (bs : List Byte) (s : State) :
    (scanned k n bs s).ilenWritten = s.ilenWritten := by cases k <;> rfl

@[simp] theorem scanned_ibuf (k : Sink) (n : Nat) (bs : List Byte) (s : State) :
    (scanned k n bs s).ibuf = s.ibuf := by cases k <;> rfl

@[simp] theorem scanned_done (k : Sink) (n : Nat) (bs : List Byte) (s : State) :
    (scanned k n bs s).done = s.done := by cases k <;> rfl

@[simp] theorem scanned_status (k : Sink) (n : Nat) (bs : List Byte) (s : State) :
    (scanned k n bs s).status = s.status := by cases k <;> rfl

@[simp] theorem scanned_olen (k : Sink) (n : Nat) (bs : List Byte) (s : State) :
    (scanned k n bs s).olen = s.olen := by cases k <;> rfl

@[simp] theorem scanned_crc (k : Sink) (n : Nat) (bs : List Byte) (s : State) :
    (scanned k n bs s).crc = s.crc := by cases k <;> rfl

@[simp] theorem scanned_need (k : Sink) (n : Nat) (bs : List Byte) (s : State) :
    (scanned k n bs s).need = s.need := by cases k <;> rfl

@[simp] theorem scanned_cbuf (k : Sink) (n : Nat) (bs : List Byte) (s : State) :
    (scanned k n bs s).cbuf = s.cbuf := by cases k <;> rfl

@[simp] theorem scanned_phase (k : Sink) (n : Nat) (bs : List Byte) (s : State) :
    (scanned k n bs s).phase = s.phase := by cases k <;> rfl

@[simp] theorem scanned_draws (k : Sink) (n : Nat) (bs : List Byte) (s : State) :
    (scanned k n bs s).draws = s.draws := by cases k <;> rfl

@[simp] theorem scanned_cur (k : Sink) (n : Nat) (bs : List Byte) (s : State) :
    (scanned k n bs s).cur = s.cur + n := by cases k <;> rfl

@[simp] theorem scanned_obuf_obuf (n : Nat) (bs : List Byte) (s : State) :
    (scanned .obuf n bs s).obuf = Memory.ofBytes 0 (s.obuf.values ++ bs) := rfl

@[simp] theorem scanned_obuf_ubuf (n : Nat) (bs : List Byte) (s : State) : (scanned .obuf n bs s).ubuf = s.ubuf := rfl

@[simp] theorem scanned_ubuf_ubuf (n : Nat) (bs : List Byte) (s : State) :
    (scanned .ubuf n bs s).ubuf = Memory.ofBytes 0 (s.ubuf.values ++ bs) := rfl

@[simp] theorem scanned_ubuf_obuf (n : Nat) (bs : List Byte) (s : State) : (scanned .ubuf n bs s).obuf = s.obuf := rfl

/-- The output pass on an input that unescapes, where the output fits: it goes on at the end of the input, with the
output appended. -/
theorem scanPass_eq (k : Sink) (tr en : State → Result) (bs out : List Byte) {s : State}
    (h : (sinkMemory k s).Exactly s.wr) (hu : unescape bs = some out)
    (hf : fits s.cfg (s.wr + out.length) = true) :
    scanPass k tr en bs s = en (scanned k bs.length out s) := by
  induction bs using unescape.induct generalizing s out with
  | case1 =>
    simp only [unescape, Option.some.injEq] at hu; subst hu
    rw [scanPass, scanned, appended_nil h]; rfl
  | case2 => simp [unescape] at hu
  | case3 v rest ih =>
    rw [unescape_cons_pair] at hu
    obtain ⟨o, ho, rfl⟩ := Option.map_eq_some_iff.1 hu
    simp only [List.length_cons] at hf
    rw [scanPass_cons_pair, consumePair_exactly h (fits_mono (by omega) hf), andThen_next]
    rw [show advance 2 (appended k [v ^^^ MASK] s) = scanned k 2 [v ^^^ MASK] s from rfl,
      ih o (scanned_exactly h _ _) ho, scanned_scanned]
    · rw [show 2 + rest.length = (ESC :: v :: rest).length by simp; omega]; rfl
    · simpa [Nat.add_assoc, Nat.add_comm 1] using hf
  | case4 b rest hb ih =>
    rw [unescape_cons_data hb] at hu
    obtain ⟨o, ho, rfl⟩ := Option.map_eq_some_iff.1 hu
    simp only [List.length_cons] at hf
    rw [scanPass_cons_data hb, consumeByte_exactly h (fits_mono (by omega) hf), andThen_next]
    rw [show advance 1 (appended k [b] s) = scanned k 1 [b] s from rfl,
      ih o (scanned_exactly h _ _) ho, scanned_scanned]
    · rw [show 1 + rest.length = (b :: rest).length by simp; omega]; rfl
    · simpa [Nat.add_assoc, Nat.add_comm 1] using hf

end Sys2Proof.Machine
end

