-- ==== Sys2Proof/Laws/PerInstr.lean ====
section
/-! SUPPORT. Statements for all instructions, one lemma per constructor. `EncodingShape`: an instruction's bytes carry
the pattern of its row of spec/opcode_table.json and have the row's length. -/

namespace Sys2Proof.Laws

/-- The table's `match` and `mask` of a row, the row read as one number with its first byte leftmost (R94). The DATA
row has neither. -/
def rowPattern : Instr → Option (Nat × Nat)
  | .encode => some (0x0, 0x7)
  | .decode => some (0x1, 0x7)
  | .escape => some (0x2, 0x7)
  | .unescape => some (0x3, 0x7)
  | .checksum => some (0x4, 0x7)
  | .ok => some (0x0, 0x3)
  | .checksumMismatch => some (0x1, 0x3)
  | .malformedFrame => some (0x2, 0x3)
  | .allocationFailure => some (0x3, 0x3)
  | .boundary => some (0x7E, 0xFF)
  | .escpair _ => some (0x7D00, 0xFF00)
  | .data _ => none

/-- The bytes of an instruction as one number, the first byte leftmost. -/
def wordOf (bs : List Byte) : Nat := bs.foldl (fun n b => n * 256 + b.toNat) 0

/-- R91, R94: how many bytes a row has. -/
def rowBytes : Instr → Nat
  | .escpair _ => 2
  | _ => 1

def EncodingShape.Statement (i : Instr) : Prop :=
  (Sys2Proof.encode i).length = rowBytes i ∧ ∀ p ∈ rowPattern i, wordOf (Sys2Proof.encode i) &&& p.2 = p.1

theorem EncodingShape.encode : EncodingShape.Statement .encode := ⟨by decide, by simp [rowPattern]; decide⟩
theorem EncodingShape.decode : EncodingShape.Statement .decode := ⟨by decide, by simp [rowPattern]; decide⟩
theorem EncodingShape.escape : EncodingShape.Statement .escape := ⟨by decide, by simp [rowPattern]; decide⟩
theorem EncodingShape.unescape : EncodingShape.Statement .unescape := ⟨by decide, by simp [rowPattern]; decide⟩
theorem EncodingShape.checksum : EncodingShape.Statement .checksum := ⟨by decide, by simp [rowPattern]; decide⟩
theorem EncodingShape.ok : EncodingShape.Statement .ok := ⟨by decide, by simp [rowPattern]; decide⟩
theorem EncodingShape.checksumMismatch : EncodingShape.Statement .checksumMismatch := ⟨by decide, by simp [rowPattern]; decide⟩
theorem EncodingShape.malformedFrame : EncodingShape.Statement .malformedFrame := ⟨by decide, by simp [rowPattern]; decide⟩
theorem EncodingShape.allocationFailure : EncodingShape.Statement .allocationFailure := ⟨by decide, by simp [rowPattern]; decide⟩
theorem EncodingShape.boundary : EncodingShape.Statement .boundary := ⟨by decide, by simp [rowPattern]; decide⟩
theorem EncodingShape.escpair (v : Byte) : EncodingShape.Statement (.escpair v) := by
  refine ⟨rfl, fun p hp => ?_⟩
  simp only [rowPattern, Option.mem_def, Option.some.injEq] at hp
  subst hp
  revert v; decide
theorem EncodingShape.data (d : Byte) : EncodingShape.Statement (.data d) := ⟨rfl, by simp [rowPattern]⟩

end Sys2Proof.Laws
end

