-- ==== Sys2Proof/Tests/Slice0.lean ====
section
/-! SUPPORT. The model's own tests. Expected values are the spec's: the encodings of 30_encoding.md and the vectors of
95_test_vectors.md, named beside each test. After them, the witnesses: for each statement with hypotheses, a state and
operands that meet them. -/

namespace Sys2Proof.Tests

open Sys2Proof Sys2Proof.Machine

/-! ### Helpers -/

/-- Right after reset with capacity `cap`, a command written (R213). -/
def commanded (cap : Option Nat) (op : BitVec 3) (inp : List Byte) : State :=
  { State.resetWith (Config.mk cap) 0 with
    op := op, opWritten := true, ilen := inp.length, ilenWritten := true, ibuf := Memory.ofBytes 0 inp }

/-- The response that a result holds. -/
def responseOf : Result → Option (Status × List Byte)
  | .next t => t.response
  | .fault _ => none
  | .refused _ => none

/-- The next state of a result. -/
def nextOf : Result → Option State
  | .next t => some t
  | .fault _ => none
  | .refused _ => none

/-- The fault or the refusal of a result. -/
def stopOf : Result → Option (Fault ⊕ Refusal)
  | .next _ => none
  | .fault f => some (.inl f)
  | .refused r => some (.inr r)

def isNext : Result → Bool
  | .next _ => true
  | .fault _ => false
  | .refused _ => false

/-- An UNESCAPE (op 3) or DECODE (op 1) whose scan stands at the start of its input. -/
def scanning (cap : Option Nat) (op : BitVec 3) (inp : List Byte) : State :=
  { commanded cap op inp with need := (unescapeSize inp).getD 0, phase := .scan }

/-- An operation that has written `out` and delivers code `c`. -/
def delivering (c : BitVec 2) (out : List Byte) : State :=
  { commanded none 3 [0x41, 0x42] with
    obuf := Memory.ofBytes 0 out, wr := out.length, need := out.length, phase := .respond c }

theorem exists_next {r : Result} (h : isNext r = true) : ∃ t, r = .next t := by
  cases r with
  | next t => exact ⟨t, rfl⟩
  | fault f => cases h
  | refused q => cases h

/-! ### WellFormed: each check refuses an ill-formed term (R91, R94) -/

theorem test_illformed_data_boundary : Instr.wellFormed (.data 0x7E) = false := by decide
theorem test_illformed_data_escape : Instr.wellFormed (.data 0x7D) = false := by decide

/-! ### Decoding, a word for every row, bit by bit from 30_encoding.md R81, R85, R91, R94 -/

theorem test_decode_commands :
    decode .cmd [0b00000000] = .ok (.encode, []) ∧ decode .cmd [0b00000001] = .ok (.decode, []) ∧
    decode .cmd [0b00000010] = .ok (.escape, []) ∧ decode .cmd [0b00000011] = .ok (.unescape, []) ∧
    decode .cmd [0b00000100] = .ok (.checksum, []) := by decide
theorem test_decode_reserved_command :
    decode .cmd [0b00000101] = .error (.reservedOpcode 5) ∧ decode .cmd [0b00000111] = .error (.reservedOpcode 7) := by
  decide
theorem test_decode_results :
    decode .rsp [0b00000000] = .ok (.ok, []) ∧ decode .rsp [0b00000001] = .ok (.checksumMismatch, []) ∧
    decode .rsp [0b00000010] = .ok (.malformedFrame, []) ∧ decode .rsp [0b00000011] = .ok (.allocationFailure, []) := by
  decide
theorem test_decode_boundary : decode .wire [0b01111110, 0x01] = .ok (.boundary, [0x01]) := by decide
theorem test_decode_escpair : decode .wire [0b01111101, 0b01011110] = .ok (.escpair 0x5E, []) := by decide
theorem test_decode_data : decode .wire [0b00000001] = .ok (.data 0x01, []) := by decide
theorem test_decode_truncated : decode .wire [0x7D] = .error .truncatedEscape := by decide
/-- R89: `7D 7D 7E` is one pair with second byte 0x7D, then a boundary marker. -/
theorem test_parse_second_byte_not_classified : parseWire [0x7D, 0x7D, 0x7E] = .ok [.escpair 0x7D, .boundary] := by
  decide

/-! ### Table words, as the host numbers them (log entry 2) -/

theorem test_table_words :
    decodeTableWord 8 0 = some .encode ∧ decodeTableWord 8 4 = some .checksum ∧ decodeTableWord 3 1 = some .decode ∧
    decodeTableWord 2 1 = some .checksumMismatch ∧ decodeTableWord 2 3 = some .allocationFailure ∧
    decodeTableWord 8 0x7E = some .boundary ∧ decodeTableWord 16 0x7D5E = some (.escpair 0x5E) ∧
    decodeTableWord 16 0x7D00 = some (.escpair 0) ∧ decodeTableWord 8 0x41 = some (.data 0x41) ∧
    decodeTableWord 8 5 = none := by decide
theorem test_fetch_word_command : step (State.reset.withFetchWord 8 4) = exec .checksum (State.reset.withFetchWord 8 4) := by
  rfl
theorem test_fetch_word_runs :
    responseOf (step (State.reset.withFetchWord 8 0)) = some (.ok, [0x7E, 0x00, 0x00, 0x7E]) := by decide
theorem test_fetch_word_symbol :
    step (State.reset.withFetchWord 16 0x7D5E) = exec (.escpair 0x5E) (State.reset.withFetchWord 16 0x7D5E) := by rfl
theorem test_fetch_word_result :
    step (State.reset.withFetchWord 2 2) = exec .malformedFrame (State.reset.withFetchWord 2 2) := by rfl

/-! ### The functions -/

/-- 40_checksum.md R112, spot checks. -/
theorem test_table_spots :
    TableRom.rom.read 0x00 = 0x0000 ∧ TableRom.rom.read 0x01 = 0x1189 ∧ TableRom.rom.read 0x80 = 0x8408 ∧
    TableRom.rom.read 0xFF = 0x0F78 := by decide
/-- R118, the trace on [01, 02]. -/
theorem test_crc_trace : crcStep .rom 0xFFFF 0x01 = 0x1E0E ∧ crcStep .rom 0x1E0E 0x02 = 0xCA72 := by decide
/-- V-CRC-9: the ASCII bytes "123456789". -/
theorem test_crc_check_value :
    crc16 [0x31, 0x32, 0x33, 0x34, 0x35, 0x36, 0x37, 0x38, 0x39] = 0x906E := by decide +kernel
/-- V-DEC-16 to V-DEC-19 (R172): frames that `encode` never produces. -/
theorem test_noncanonical_frames :
    decodeFrame [0x7E, 0x7D, 0x21, 0x02, 0x8D, 0x35, 0x7E] = some ([0x01, 0x02], true) ∧
    decodeFrame [0x7E, 0x01, 0x02, 0x7D, 0xAD, 0x35, 0x7E] = some ([0x01, 0x02], true) ∧
    decodeFrame [0x7D, 0x5E, 0x01, 0x02, 0x8D, 0x35, 0x7E] = some ([0x01, 0x02], true) ∧
    decodeFrame [0x7E, 0x01, 0x02, 0x8D, 0x35, 0x7D, 0x5E] = some ([0x01, 0x02], true) := by decide

/-! ### The five operations, one step each -/

/-- V-CRC-7 and V-CMD-2. -/
theorem test_checksum : responseOf (step (commanded (some 2) 4 [0x02, 0x01])) = some (.ok, [0x7E, 0x2D]) := by decide
theorem test_checksum_capacity :
    responseOf (step (commanded (some 1) 4 [0x01])) = some (.allocationFailure, []) := by decide
/-- V-ESC-5 and V-ESC-9. -/
theorem test_escape :
    responseOf (step (commanded none 2 [0x01, 0x7E, 0x02, 0x7D])) =
      some (.ok, [0x01, 0x7D, 0x5E, 0x02, 0x7D, 0x5D]) := by decide
theorem test_escape_capacity :
    responseOf (step (commanded (some 8) 2 [0x7E, 0x7D, 0x7E, 0x7D, 0x01])) = some (.allocationFailure, []) := by
  decide
/-- V-UNE-8 and V-UNE-7. -/
theorem test_unescape : responseOf (step (commanded none 3 [0x7D, 0x7D, 0x01])) = some (.ok, [0x5D, 0x01]) := by decide
theorem test_unescape_malformed :
    responseOf (step (commanded none 3 [0x7D, 0x7D, 0x7D])) = some (.malformedFrame, []) := by decide
/-- V-ENC-13 (low trailer byte 7D first, then 7E) and V-ENC-18. -/
theorem test_encode :
    responseOf (step (commanded none 0 [0x28, 0x18])) =
      some (.ok, [0x7E, 0x28, 0x18, 0x7D, 0x5D, 0x7D, 0x5E, 0x7E]) := by decide
theorem test_encode_capacity :
    responseOf (step (commanded (some 5) 0 [0x7E])) = some (.allocationFailure, []) := by decide
/-- V-DEC-22 and V-DEC-13. -/
theorem test_decode_mismatch :
    responseOf (step (commanded none 1 [0x7E, 0x01, 0x02, 0x8D, 0x35, 0x7E, 0x7E])) =
      some (.checksumMismatch, [0x01, 0x02, 0x8D]) := by decide +kernel
theorem test_decode_marker_consumed :
    responseOf (step (commanded none 1 [0x7E, 0x01, 0x02, 0x8D, 0x35, 0x7D, 0x7E])) = some (.malformedFrame, []) := by
  decide +kernel

/-! ### Symbols, results, host -/

/-- R89: `7D 20` yields 00; the cursor moves by two and `wr` by one. -/
theorem test_symbol_escpair :
    (nextOf (step (scanning none 3 [0x7D, 0x20]))).map (fun t => (t.obuf, t.cur, t.wr)) =
      some ([(0, 0x00)], 2, 1) := by decide
theorem test_symbol_boundary_in_decode :
    (nextOf (step (scanning none 1 [0x7E, 0x01]))).map (fun t => (t.ubuf, t.obuf, t.cur)) =
      some ([(0, 0x7E)], [], 1) := by decide
/-- R188: a result without output. -/
theorem test_result_malformed : responseOf (step (delivering 2 [0x41])) = some (.malformedFrame, []) := by decide
theorem test_result_mismatch :
    responseOf (step (delivering 1 [0x41])) = some (.checksumMismatch, [0x41]) := by decide
/-- R213: START right after reset. -/
theorem test_start_after_reset : stopOf (step State.reset) = some (.inr .commandNotWritten) := by decide

/-! ### Witnesses -/

theorem ready_commanded (cap : Option Nat) (op : BitVec 3) (inp : List Byte)
    (h : fits (Config.mk cap) inp.length = true) : (commanded cap op inp).Ready inp :=
  ⟨rfl, rfl, h, Memory.bytes_ofBytes 0 inp⟩

/-- SymbolAtCursorByFirstByte: each clause, with a neighbour of the reserved values. -/
theorem witness_symbol_at_cursor :
    decode .wire [0x7E, 0x7D] = .ok (.boundary, [0x7D]) ∧ decode .wire [0x7D] = .error .truncatedEscape ∧
    decode .wire [0x7D, 0x7E] = .ok (.escpair 0x7E, []) ∧ decode .wire [0x7F] = .ok (.data 0x7F, []) := by decide

/-- DecodeEncodeAgree, WireStreamParsesUniquely, UnescapeEmitsSymbolValues: both sides are met. -/
theorem witness_parse :
    parseWire [0x7E, 0x7D, 0x5E, 0x01] = .ok [.boundary, .escpair 0x5E, .data 0x01] ∧
    parseWire [0x01, 0x7D] = .error .truncatedEscape := by decide

/-- StepRunsTheDecodedInstruction: a state for each of the three places. -/
theorem witness_step_places :
    ((commanded none 4 []).phase = .idle ∧ (commanded none 4 []).opWritten = true ∧
      decode .cmd [(commanded none 4 []).op.setWidth 8] = .ok (.checksum, [])) ∧
    ((scanning none 3 [0x7D, 0x5E]).phase = .scan ∧ remaining (scanning none 3 [0x7D, 0x5E]) = some [0x7D, 0x5E]) ∧
    ((delivering 3 []).phase = .respond 3 ∧ decode .rsp [(3 : BitVec 2).setWidth 8] = .ok (.allocationFailure, [])) := by
  decide

/-- A DECODE whose scan is at its end, with `u` in UBUF. -/
def scannedFrame (cap : Option Nat) (u : List Byte) : State :=
  { scanning cap 1 [] with ubuf := Memory.ofBytes 0 u, wr := u.length, need := u.length }

/-- ScanEndsOrIsMalformed: the end of an UNESCAPE, of a DECODE with a frame (capacity just enough) and without one, and
a lone marker. -/
theorem witness_scan_ends :
    (remaining (scanning none 3 []) = some [] ∧ (scanning none 3 []).op ≠ 1) ∧
    (remaining (scannedFrame (some 2) []) = some [] ∧ (scannedFrame (some 2) []).op = 1 ∧
      (scannedFrame (some 2) [0x7E, 0x01, 0x02, 0x8D, 0x35, 0x7E]).ubuf.values =
        [0x7E] ++ [0x01, 0x02] ++ [0x8D, 0x35] ++ [0x7E] ∧
      fits (Config.mk (some 2)) [(0x01 : Byte), 0x02].length = true) ∧
    remaining (scanning none 1 [0x7D]) = some [0x7D] := by decide
/-- A buffer of three bytes is no frame. -/
theorem witness_scan_ends_malformed (p : List Byte) (lo hi : Byte) :
    (scannedFrame none [0x7E, 0x7E, 0x7E]).ubuf.values ≠ [0x7E] ++ p ++ [lo, hi] ++ [0x7E] := by
  intro h
  have := congrArg List.length h
  simp [scannedFrame] at this
/-- R171, the end of the scan: V-DEC-2's neighbours `[7E 01 02 8D 34 7E]` and `[7E 00 00 00]`. -/
theorem test_scan_end_decode :
    (nextOf (step (scannedFrame none [0x7E, 0x01, 0x02, 0x8D, 0x34, 0x7E]))).map (fun t => (t.obuf, t.need, t.phase)) =
      some ([(0, 0x01), (1, 0x02)], 2, .respond 1) ∧
    (nextOf (step (scannedFrame none [0x7E, 0x00, 0x00, 0x00]))).map (fun t => t.phase) = some (.respond 2) := by
  decide +kernel

/-- ReservedOpcodeRefused, at both ends of the range (V-CMD-0, V-CMD-1). -/
theorem witness_reserved_opcode :
    stopOf (step (commanded none 5 [0x01])) = some (.inr (.reservedOpcode 5)) ∧
    stopOf (step (commanded none 7 [])) = some (.inr (.reservedOpcode 7)) := by decide

/-- OperationIsOneTransition, EveryOperationCompletes, RepeatedCommandRepeatsResponse, NoInstructionChangesTheCommand,
StatusValuesByOperation: commands that answer a next state, op 0 and op 4. -/
theorem witness_command_completes :
    isNext (step (commanded none 0 [0x7E])) = true ∧ isNext (step (commanded none 4 [])) = true ∧
    isNext (exec .unescape (commanded none 3 [0x7D])) = true ∧ isNext (exec .decode (commanded none 1 [])) = true ∧
    isNext (exec .escape (commanded (some 0) 2 [])) = true := by decide

/-- CommandRefusals: each clause. -/
theorem witness_command_refusals :
    stopOf (exec .encode (scanning none 3 [])) = some (.inr .operationInProgress) ∧
    stopOf (exec .decode { commanded none 1 [] with ilenWritten := false }) = some (.inr .commandNotWritten) ∧
    stopOf (exec .escape (commanded (some 1) 2 [0x01, 0x02])) = some (.inr .inputTooLong) ∧
    stopOf (exec .checksum { commanded none 4 [0x01] with ilen := 2 }) = some (.inr .commandNotWritten) ∧
    stopOf (step { commanded none 4 [] with opWritten := false }) = some (.inr .commandNotWritten) := by decide

/-- ChecksumCompletes, EscapeCompletes, EncodeCompletes, CapacityNeeded: ready states on both sides of the capacity. -/
theorem witness_ready_at_capacity :
    ((commanded (some 2) 4 []).Ready [] ∧ fits (Config.mk (some 2)) 2 = true) ∧
    ((commanded (some 1) 4 []).Ready [] ∧ fits (Config.mk (some 1)) 2 = false) ∧
    ((commanded (some 2) 2 [0x7E]).Ready [0x7E] ∧ fits (Config.mk (some 2)) (1 + reservedCount [0x7E]) = true) ∧
    ((commanded (some 1) 2 [0x7E]).Ready [0x7E] ∧ fits (Config.mk (some 1)) (1 + reservedCount [0x7E]) = false) ∧
    ((commanded (some 4) 0 []).Ready [] ∧ fits (Config.mk (some 4)) (0 + 4 + reservedCount ([] ++ [low (crc16 []), high (crc16 [])])) = true) ∧
    ((commanded (some 3) 0 []).Ready [] ∧ fits (Config.mk (some 3)) (0 + 4 + reservedCount ([] ++ [low (crc16 []), high (crc16 [])])) = false) := by
  refine ⟨⟨ready_commanded _ _ _ ?_, ?_⟩, ⟨ready_commanded _ _ _ ?_, ?_⟩, ⟨ready_commanded _ _ _ ?_, ?_⟩,
    ⟨ready_commanded _ _ _ ?_, ?_⟩, ⟨ready_commanded _ _ _ ?_, ?_⟩, ⟨ready_commanded _ _ _ ?_, ?_⟩⟩ <;> decide

/-- CapacityNeeded: the bounds 2n + 6 and 2n are met at capacity 8 with n = 1. -/
theorem witness_capacity_bounds :
    (commanded (some 8) 0 [0x7E]).Ready [0x7E] ∧ fits (Config.mk (some 8)) (2 * 1 + 6) = true ∧
    fits (Config.mk (some 8)) (2 * 1) = true := by
  refine ⟨ready_commanded _ _ _ ?_, ?_, ?_⟩ <;> decide

/-- EscapeLengthLaw: inputs without and with only reserved bytes. -/
theorem witness_escape_extremes :
    (∀ b ∈ [(0x5E : Byte), 0x7C], isReserved b = false) ∧ (∀ b ∈ [(0x7E : Byte), 0x7D], isReserved b = true) := by
  decide

/-- EscapeOutputIsWellFormed, EncodedFrameIsWellFormed: a marker at the last place it can have. -/
theorem witness_marker_in_output : (escape [0x01, 0x7E])[1]? = some 0x7D ∧ (escape [0x01, 0x7E])[2]? = some 0x5E := by
  decide

/-- UnescapeLengthLaw, UnescapeBounds, UnescapeCompletes: an input that unescapes and one that does not. -/
theorem witness_unescape_both :
    unescape [0x7D, 0x7D] = some [0x5D] ∧ unescape [0x01, 0x7D] = none ∧
    (commanded none 3 [0x01, 0x7D]).Ready [0x01, 0x7D] ∧ (commanded none 3 [0x7D, 0x7D]).Ready [0x7D, 0x7D] := by
  exact ⟨by decide, by decide, ready_commanded _ _ _ rfl, ready_commanded _ _ _ rfl⟩

/-- DecodeAcceptsExactlyFrames, DecodedPayloadLength, DecodeCompletes: the three outcomes (V-DEC-2, V-DEC-3, V-DEC-11). -/
theorem witness_decode_outcomes :
    decodeFrame [0x7E, 0x00, 0x00, 0x7E] = some ([], true) ∧ decodeFrame [0x7E, 0x7E, 0x7E, 0x7E] = some ([], false) ∧
    decodeFrame [0x7E, 0x7D, 0x5E, 0x7E] = none ∧
    (commanded (some 4) 1 [0x7E, 0x00, 0x00, 0x7E]).Ready [0x7E, 0x00, 0x00, 0x7E] := by
  exact ⟨by decide, by decide, by decide, ready_commanded _ _ _ (by decide)⟩

/-- RoundTripOnTheMachine, PresentedCommandIsReady: an idle state with exactly the capacity needed. -/
theorem witness_round_trip :
    (State.resetWith (Config.mk (some 6)) 0).phase = .idle ∧
    fits (State.resetWith (Config.mk (some 6)) 0).cfg (encodeFrame [0x7E]).length = true := by decide

/-- UnescapeScanConsumesSymbol, DecodeScanConsumesSymbol, SymbolFrame: the last index that exists. -/
theorem witness_scan_symbol :
    ((scanning (some 1) 3 [0x7E]).phase = .scan ∧ (scanning (some 1) 3 [0x7E]).op ≠ 1 ∧
      indexExists (scanning (some 1) 3 [0x7E]).cfg (scanning (some 1) 3 [0x7E]).wr = true) ∧
    (scanning (some 1) 1 [0x7E]).op = 1 ∧ isNext (exec .boundary (scanning (some 1) 3 [0x7E])) = true ∧
    isNext (exec (.escpair 0xFF) (scanning (some 1) 1 [0x7E])) = true ∧
    isNext (exec (.data 0x00) (scanning (some 1) 1 [0x7E])) = true := by decide

/-- ResultWithOutputDelivered, ResultWithoutOutputDelivered: the four codes. -/
theorem witness_results :
    isNext (exec .ok (delivering 0 [])) = true ∧ isNext (exec .checksumMismatch (delivering 1 [0x41])) = true ∧
    isNext (exec .malformedFrame (delivering 2 [])) = true ∧
    isNext (exec .allocationFailure (delivering 3 [])) = true := by decide

/-- SymbolsAndResultsOutsideAnOperationStop: each clause. -/
theorem witness_stops :
    stopOf (exec .boundary (commanded none 3 [])) = some (.inr .nothingInProgress) ∧
    stopOf (exec (.data 0x01) (scanning (some 0) 3 [])) = some (.inl (.indexOutside .obuf)) ∧
    stopOf (exec (.escpair 0x5E) (scanning (some 0) 1 [])) = some (.inl (.indexOutside .ubuf)) ∧
    stopOf (exec .ok (delivering 1 [])) = some (.inr .nothingInProgress) := by decide

/-- ResponseDependsOnTheCommandAlone: two different states with the same command. -/
theorem witness_same_command :
    ∃ s u : State, s ≠ u ∧ s.Ready [0x01] ∧ u.Ready [0x01] ∧ s.opWritten = true ∧ u.opWritten = true ∧ s.op = u.op ∧
      s.cfg = u.cfg ∧ s.op.toNat < 5 :=
  ⟨commanded none 2 [0x01], { commanded none 2 [0x01] with crc := 0x1234, done := true }, by decide,
    ready_commanded _ _ _ rfl, ⟨rfl, rfl, rfl, rfl⟩, rfl, rfl, rfl, rfl, by decide⟩

/-- TimedScanReachesTheAtomicResult: both operations, and that START leaves the scan in progress. -/
theorem witness_timed_scan :
    (commanded none 3 [0x7D, 0x5E]).Ready [0x7D, 0x5E] ∧ (commanded none 1 [0x7E]).Ready [0x7E] ∧
    isNext (startTimed (commanded none 3 [0x7D, 0x5E])) = true ∧ isNext (startTimed (commanded none 1 [0x7E])) = true :=
  ⟨ready_commanded _ _ _ rfl, ready_commanded _ _ _ rfl, by decide, by decide⟩

/-- StepKeepsTheInvariant, HostMovesKeepTheInvariant, StepNeverFaults, OutputStaysBelowNeed: invariant states that step, in each phase. -/
theorem witness_invariant_idle :
    (commanded (some 2) 2 [0x01, 0x7E]).Inv ∧ isNext (step (commanded (some 2) 2 [0x01, 0x7E])) = true :=
  ⟨⟨Memory.ofBytes_wf _ _, by decide, by decide, by decide, by decide, by decide, by decide, by decide, by decide,
    by simp [State.PhaseInv, commanded]⟩, by decide⟩
theorem witness_invariant_scan :
    (scanning (some 2) 3 [0x7D, 0x5E]).Inv ∧ isNext (step (scanning (some 2) 3 [0x7D, 0x5E])) = true :=
  ⟨⟨Memory.ofBytes_wf _ _, by decide, by decide, by decide, by decide, by decide, by decide, by decide, by decide,
    ⟨rfl, .inr rfl, rfl, Nat.zero_le _, le_refl _, by decide, rfl, ⟨[0x7D, 0x5E], [0x7E], by decide⟩, rfl, rfl⟩⟩, by decide⟩
theorem witness_invariant_respond :
    (delivering 1 [0x41]).Inv ∧ isNext (step (delivering 1 [0x41])) = true :=
  ⟨⟨Memory.ofBytes_wf _ _, by decide, by decide, Memory.ofBytes_wf _ _, by decide, by decide, by decide, by decide, by decide,
    ⟨rfl, fun _ => ⟨rfl, rfl, rfl⟩⟩⟩, by decide⟩

/-- HostWritesTakeEffect, HostMayNotInterfere, HostReadsChangeNothing: at the last and the first missing index. -/
theorem witness_host_moves :
    isNext (hostMove (.writeIbuf 1 0xAA) (commanded (some 2) 0 [])) = true ∧
    stopOf (hostMove (.writeIbuf 2 0xAA) (commanded (some 2) 0 [])) = some (.inl (.indexOutside .ibuf)) ∧
    isNext (hostMove (.writeIlen 2) (commanded (some 2) 0 [])) = true ∧
    stopOf (hostMove (.writeIlen 3) (commanded (some 2) 0 [])) = some (.inr .inputTooLong) ∧
    stopOf (hostMove .start (scanning none 3 [])) = some (.inr .operationInProgress) ∧
    stopOf (hostMove .readOp (scanning none 3 [])) = some (.inr .operationInProgress) ∧
    isNext (hostMove .readStatus State.reset) = true ∧ isNext (hostMove (.readObuf 9) State.reset) = true := by decide

/-- HostReadsTheResponse: a state that delivers a response (an OK with one byte). -/
theorem witness_delivers : (finish .ok (delivering 0 [0x41])).Delivers .ok [0x41] := ⟨rfl, rfl, rfl, rfl, rfl⟩

/-- InstancesAreIndependent: moves of two instances, interleaved; the first is refused and the second goes on. -/
theorem witness_instances :
    System.run [(0, .start), (1, .writeOp 2), (0, .writeIlen 0), (1, .writeIlen 0)]
        (System.ofStates [State.reset, State.reset]) =
      [.refused .commandNotWritten, .next (putIlen 0 (putOp 2 State.reset))] := rfl

end Sys2Proof.Tests
end

/-! ## The command and the invariant

What each command answers from a ready state is said once (`exec_command_ready`), and so is what each move of an
operation in progress does (`step_scan_byte`, `step_scan_pair`, `step_scan_end`, `step_respond`). The obligations about
the block's state follow from these. -/

namespace Sys2Proof.Machine

/-! ### Lengths of the wire codec -/

theorem escapeSize_eq_length (bs : List Byte) : escapeSize bs = (escape bs).length := by
  induction bs with
  | nil => rfl
  | cons b bs ih =>
    have hb : (escape (b :: bs)).length = (escapeByte b).length + (escape bs).length := by simp [escape]
    rw [hb, ← ih]
    by_cases hr : isReserved b
    · simp [escapeSize, reservedCount, escapeByte, hr]; omega
    · simp [escapeSize, reservedCount, escapeByte, hr]; omega

theorem length_le_length_escape (bs : List Byte) : bs.length ≤ (escape bs).length := by
  rw [← escapeSize_eq_length]; exact Nat.le_add_right _ _

theorem length_encodeFrame (p : List Byte) : (encodeFrame p).length = escapeSize (checksummed p) + 2 := by
  simp [encodeFrame, escapeSize_eq_length]

/-- R143: the sizing pass finds the length of the scan's output, and the malformed case. -/
theorem unescapeSize_eq (bs : List Byte) : unescapeSize bs = (unescape bs).map List.length := by
  induction bs using unescape.induct with
  | case1 => rfl
  | case2 => rfl
  | case3 v rest ih =>
    rw [unescape_cons_pair, unescapeSize.eq_def]
    simp [ih, Function.comp_def]
  | case4 b rest hb ih =>
    rw [unescape_cons_data hb, unescapeSize.eq_def]
    simp [hb, ih, Function.comp_def]

theorem length_unescape_le {bs out : List Byte} (h : unescape bs = some out) : out.length ≤ bs.length := by
  induction bs using unescape.induct generalizing out with
  | case1 => cases h; exact le_refl _
  | case2 => cases h
  | case3 v rest ih =>
    rw [unescape_cons_pair] at h
    obtain ⟨o, ho, rfl⟩ := Option.map_eq_some_iff.1 h
    have := ih ho
    simp only [List.length_cons]; omega
  | case4 b rest hb ih =>
    rw [unescape_cons_data hb] at h
    obtain ⟨o, ho, rfl⟩ := Option.map_eq_some_iff.1 h
    have := ih ho
    simp only [List.length_cons]; omega

theorem length_framePayload_le (u : List Byte) : (framePayload u).length ≤ u.length := by
  simp [framePayload]

/-! ### Bytes inside the capacity (R24, R25, R50) -/

theorem Memory.Exactly.inside {c : Config} {m : Memory} {n : Nat} (h : m.Exactly n) (hf : fits c n = true) :
    ∀ i ∈ m.indices, indexExists c i = true := by
  intro i hi
  rw [show m.indices = List.range n from h, List.mem_range] at hi
  exact fits_mono hi hf

theorem Memory.write_inside {c : Config} {m : Memory} {a : Nat} (v : Byte) (ha : indexExists c a = true)
    (h : ∀ i ∈ m.indices, indexExists c i = true) : ∀ i ∈ (m.write a v).indices, indexExists c i = true := by
  intro i hi
  obtain ⟨d, hd, rfl⟩ := List.mem_map.1 hi
  rcases Memory.mem_write hd with rfl | hd
  · exact ha
  · exact h _ (List.mem_map_of_mem hd)

/-! ### What keeps the command

An operation's passes change no register of the command; `simp` peels them off one by one. -/

theorem SameCommand.iff_of_sameCommand {s t u : State} (h : SameCommand t u) : SameCommand s u ↔ SameCommand s t :=
  ⟨fun k => ⟨h.cfg ▸ k.cfg, h.table ▸ k.table, h.op ▸ k.op, h.opWritten ▸ k.opWritten, h.ilen ▸ k.ilen,
    h.ilenWritten ▸ k.ilenWritten, h.ibuf ▸ k.ibuf⟩, fun k => k.trans h⟩

section
variable (s t : State)

@[simp] theorem sameCommand_begin : SameCommand s (begin t) ↔ SameCommand s t :=
  SameCommand.iff_of_sameCommand (begin_sameCommand t)

@[simp] theorem sameCommand_startScan : SameCommand s (startScan t) ↔ SameCommand s t :=
  SameCommand.iff_of_sameCommand (by constructor <;> simp)

@[simp] theorem sameCommand_startOutput : SameCommand s (startOutput t) ↔ SameCommand s t :=
  SameCommand.iff_of_sameCommand (by constructor <;> simp)

@[simp] theorem sameCommand_withNeed (n : Nat) : SameCommand s (withNeed n t) ↔ SameCommand s t :=
  SameCommand.iff_of_sameCommand (by constructor <;> simp)

@[simp] theorem sameCommand_advance (n : Nat) : SameCommand s (advance n t) ↔ SameCommand s t :=
  SameCommand.iff_of_sameCommand (by constructor <;> simp)

@[simp] theorem sameCommand_withCbuf (bs : List Byte) : SameCommand s (withCbuf bs t) ↔ SameCommand s t :=
  SameCommand.iff_of_sameCommand (by constructor <;> simp)

@[simp] theorem sameCommand_inPhase (p : Phase) : SameCommand s (inPhase p t) ↔ SameCommand s t :=
  SameCommand.iff_of_sameCommand (by constructor <;> simp)

@[simp] theorem sameCommand_runChecksum (bs : List Byte) : SameCommand s (runChecksum bs t) ↔ SameCommand s t :=
  SameCommand.iff_of_sameCommand (by constructor <;> simp)

@[simp] theorem sameCommand_appended (k : Sink) (bs : List Byte) : SameCommand s (appended k bs t) ↔ SameCommand s t :=
  SameCommand.iff_of_sameCommand (by constructor <;> simp)

@[simp] theorem sameCommand_scanned (k : Sink) (n : Nat) (bs : List Byte) :
    SameCommand s (scanned k n bs t) ↔ SameCommand s t :=
  SameCommand.iff_of_sameCommand (by constructor <;> simp)

end

/-! ### The response of a command (R41 `Exec`) -/

/-- R41: the response of a command on an input; a result code or a wire symbol is no command and has none. -/
def commandResponse (c : Config) (inp : List Byte) : Instr → Option (Status × List Byte)
  | .encode => some (encodeResponse c inp)
  | .decode => some (decodeResponse inp)
  | .escape => some (escapeResponse c inp)
  | .unescape => some (unescapeResponse inp)
  | .checksum => some (checksumResponse c inp)
  | .ok | .checksumMismatch | .malformedFrame | .allocationFailure => none
  | .boundary | .escpair _ | .data _ => none

/-- R188: from `s`, an operation has completed in `t` with the response `r`: the command is as it was, the response
stands in the registers and within the capacity, and the scratch buffers hold nothing. -/
structure Completes (s t : State) (r : Status × List Byte) : Prop where
  same : SameCommand s t
  delivers : t.Delivers r.1 r.2
  outputFits : fits s.cfg r.2.length = true
  noOutput : r.1.hasOutput = false → r.2 = []
  cbuf : t.cbuf = []
  ubuf : t.ubuf = []

/-- An operation started in `s` has written exactly the output `out` to OBUF. -/
structure HoldsOutput (s v : State) (out : List Byte) : Prop where
  same : SameCommand s v
  obuf : v.obuf = Memory.ofBytes 0 out
  wr : v.wr = out.length

namespace HoldsOutput

variable {s v : State} {out : List Byte}

theorem exactly (h : HoldsOutput s v out) : v.obuf.Exactly v.wr := by
  rw [h.obuf, h.wr]; exact Memory.ofBytes_exactly out

/-- What is of the command, of OBUF and of `wr` alone carries over to a state that agrees on them. -/
theorem congr {w : State} (h : HoldsOutput s v out) (hc : SameCommand v w) (ho : w.obuf = v.obuf)
    (hw : w.wr = v.wr) : HoldsOutput s w out :=
  ⟨h.same.trans hc, ho.trans h.obuf, hw.trans h.wr⟩

theorem append (h : HoldsOutput s v out) (bs : List Byte) : HoldsOutput s (appended .obuf bs v) (out ++ bs) :=
  ⟨by simpa using h.same, by simp [h.obuf], by simp [h.wr]⟩

theorem emitAll_eq (h : HoldsOutput s v out) {bs : List Byte}
    (hf : fits s.cfg (out.length + bs.length) = true) :
    emitAll .obuf bs v = .next (appended .obuf bs v) :=
  emitAll_exactly (k := .obuf) bs h.exactly (by rw [h.wr, h.same.cfg]; exact hf)

theorem emit_eq (h : HoldsOutput s v out) {b : Byte} (hf : fits s.cfg (out.length + 1) = true) :
    emit .obuf b v = .next (appended .obuf [b] v) :=
  emit_exactly (k := .obuf) h.exactly (by rw [h.wr, h.same.cfg]; exact hf)

theorem escapePass_eq (h : HoldsOutput s v out) {bs : List Byte}
    (hf : fits s.cfg (out.length + (escape bs).length) = true) :
    escapePass bs v = .next (advance bs.length (appended .obuf (escape bs) v)) :=
  Machine.escapePass_eq bs h.exactly (by rw [h.wr, h.same.cfg]; exact hf)

end HoldsOutput

theorem fits_zero (c : Config) : fits c 0 = true := by
  obtain ⟨cap⟩ := c
  cases cap with
  | none => rfl
  | some k => simp [fits]

theorem Completes.of_output {s v : State} {out : List Byte} {st : Status} (h : HoldsOutput s v out)
    (ho : st.hasOutput = true) (hf : fits s.cfg out.length = true) : Completes s (finish st v) (st, out) where
  same := h.same.trans (finish_sameCommand st v)
  delivers := ⟨rfl, rfl, by simp [ho, h.wr],
    by simp [ho, h.wr, h.obuf, Memory.keepBelow_ofBytes], rfl⟩
  outputFits := hf
  noOutput := by simp [ho]
  cbuf := rfl
  ubuf := rfl

theorem Completes.of_noOutput {s v : State} {st : Status} (h : SameCommand s v) (ho : st.hasOutput = false) :
    Completes s (finish st v) (st, []) where
  same := h.trans (finish_sameCommand st v)
  delivers := ⟨rfl, rfl, by simp [ho], by simp [ho, Memory.ofBytes], rfl⟩
  outputFits := fits_zero _
  noOutput _ := rfl
  cbuf := rfl
  ubuf := rfl

theorem Completes.response {s t : State} {r : Status × List Byte} (h : Completes s t r) : t.response = some r := by
  obtain ⟨hdone, hst, holen, hobuf, -⟩ := h.delivers
  simp [State.response, hdone, hst, holen, hobuf, Memory.bytes_ofBytes]

/-- R58, R186: the capacity test of an operation whose sizing pass has found the length of `out`. -/
theorem ifFits_completes {s u : State} {out : List Byte} {body : State → Result} (same : SameCommand s u)
    (hneed : u.need = out.length)
    (hbody : fits u.cfg out.length = true → ∃ v, body u = complete .ok v ∧ HoldsOutput s v out) :
    ∃ t, ifFits body u = .next t ∧ Completes s t (cappedResponse s.cfg out) := by
  have hc : u.cfg = s.cfg := same.cfg
  cases hf : fits s.cfg out.length with
  | true =>
    obtain ⟨v, hv, ho⟩ := hbody (by rw [hc]; exact hf)
    refine ⟨finish .ok v, ?_, ?_⟩
    · rw [ifFits_yes (by rw [hc, hneed]; exact hf), hv]; rfl
    · rw [cappedResponse, if_pos hf]; exact .of_output ho rfl hf
  | false =>
    refine ⟨finish .allocationFailure u, ?_, ?_⟩
    · rw [ifFits_no (by rw [hc, hneed]; exact hf)]; rfl
    · simp only [cappedResponse, hf, Bool.false_eq_true, if_false]; exact .of_noOutput same rfl

/-! ### The five commands from a ready state -/

theorem execChecksum_ready {s : State} {inp : List Byte} (h : s.Ready inp) :
    ∃ t, execChecksum s = .next t ∧ Completes s t (checksumResponse s.cfg inp) := by
  rw [execChecksum, withInput_ready h]
  refine ifFits_completes (by simp) rfl fun hf => ?_
  have ho : HoldsOutput s (startOutput (runChecksum inp (withNeed 2 (begin s)))) [] :=
    ⟨by simp, by simp [Memory.ofBytes], rfl⟩
  dsimp only
  rw [checksumResult_runChecksum, ho.emitAll_eq (by simpa using hf)]
  exact ⟨_, rfl, ho.append _⟩

theorem execEscape_ready {s : State} {inp : List Byte} (h : s.Ready inp) :
    ∃ t, execEscape s = .next t ∧ Completes s t (escapeResponse s.cfg inp) := by
  rw [execEscape, withInput_ready h]
  refine ifFits_completes (by simp) (escapeSize_eq_length inp) fun hf => ?_
  have ho : HoldsOutput s (startOutput (startScan (withNeed (escapeSize inp) (begin s)))) [] :=
    ⟨by simp, rfl, rfl⟩
  rw [ho.escapePass_eq (by simpa using hf)]
  exact ⟨_, rfl, (ho.append _).congr (by simp) rfl rfl⟩

/-- R156, R160: the output of ENCODE, from the Checksummed Payload in CBUF. -/
theorem encodeOutput_holds {s v : State} {cp : List Byte} (h : HoldsOutput s v [])
    (hcbuf : v.cbuf = Memory.ofBytes 0 cp) (hf : fits s.cfg ((escape cp).length + 2) = true) :
    ∃ w, (andThen (emit .obuf BOUNDARY v) fun s =>
        andThen (escapePass s.cbuf.values (startScan s)) fun s =>
        andThen (emit .obuf BOUNDARY s) (complete .ok)) = complete .ok w ∧
      HoldsOutput s w ([BOUNDARY] ++ escape cp ++ [BOUNDARY]) := by
  have hfirst : HoldsOutput s (startScan (appended .obuf [BOUNDARY] v)) [BOUNDARY] :=
    (h.append _).congr (by simp) rfl rfl
  have hbody : HoldsOutput s
      (advance cp.length (appended .obuf (escape cp) (startScan (appended .obuf [BOUNDARY] v))))
      ([BOUNDARY] ++ escape cp) :=
    (hfirst.append _).congr (by simp) rfl rfl
  rw [h.emit_eq (fits_mono (by simp) hf), andThen_next, appended_cbuf, hcbuf, Memory.ofBytes_values,
    hfirst.escapePass_eq (fits_mono (by simp; omega) hf), andThen_next,
    hbody.emit_eq (fits_mono (by simp) hf)]
  exact ⟨_, rfl, hbody.append _⟩

theorem execEncode_ready {s : State} {inp : List Byte} (h : s.Ready inp) :
    ∃ t, execEncode s = .next t ∧ Completes s t (encodeResponse s.cfg inp) := by
  rw [execEncode, withInput_ready h]
  dsimp only
  rw [checksumResult_runChecksum, ← checksummed]
  refine ifFits_completes (by simp) (length_encodeFrame inp).symm fun hf => ?_
  have hf : fits s.cfg ((escape (checksummed inp)).length + 2) = true := by
    simpa [length_encodeFrame, escapeSize_eq_length] using hf
  have hcbuf := length_le_length_escape (checksummed inp)
  rw [storeCbuf_fits (by simpa using fits_mono (by omega) hf), andThen_next]
  exact encodeOutput_holds ⟨by simp, by simp [Memory.ofBytes], rfl⟩ rfl hf

theorem State.Ready.fits_unescape {s : State} {inp out : List Byte} (h : s.Ready inp) (hu : unescape inp = some out) :
    fits s.cfg out.length = true :=
  fits_mono (by rw [← Ready_length h]; exact length_unescape_le hu) h.ilenFits

/-- A whole scan from the start of the input, whose output fits since it is no longer than the input. -/
theorem scanPass_ready {s : State} {inp out : List Byte} (h : s.Ready inp) (hu : unescape inp = some out) (k : Sink)
    (tr en : State → Result) :
    scanPass k tr en inp (startOutput (startScan (withNeed out.length (begin s)))) =
      en (scanned k inp.length out (startOutput (startScan (withNeed out.length (begin s))))) :=
  scanPass_eq k tr en inp out (by cases k <;> simp [sinkMemory]) hu (by simpa using h.fits_unescape hu)

theorem execUnescape_ready {s : State} {inp : List Byte} (h : s.Ready inp) :
    ∃ t, execUnescape s = .next t ∧ Completes s t (unescapeResponse inp) := by
  rw [execUnescape, withInput_ready h, unescapeSize_eq, unescapeResponse]
  cases hu : unescape inp with
  | none => exact ⟨_, rfl, .of_noOutput (by simp) rfl⟩
  | some out =>
    refine ⟨_, scanPass_ready h hu .obuf _ _, .of_output ⟨?_, ?_, ?_⟩ rfl (h.fits_unescape hu)⟩
    · simp
    · simp
    · simp

/-- R164: a buffer that is no frame, in UBUF. -/
theorem interpretFrame_malformed {last : Status → State → Result} {s : State}
    (hs : frameShaped s.ubuf.values = false) :
    interpretFrame last s = last .malformedFrame s := by
  simp [interpretFrame, hs]

/-- The state in which the payload `p` of a frame has been written to OBUF. -/
def payloadWritten (p : List Byte) (s : State) : State :=
  appended .obuf p (startOutput (withNeed p.length (runChecksum p s)))

/-- R164, R166: a frame `u` in UBUF, where OBUF is empty and the payload fits. -/
theorem interpretFrame_shaped {last : Status → State → Result} {s : State} {u : List Byte}
    (hu : s.ubuf.values = u) (hs : frameShaped u = true) (hobuf : s.obuf = [])
    (hf : fits s.cfg (framePayload u).length = true) :
    interpretFrame last s =
      last (statusOfVerified (crc16 (framePayload u) == frameChecksum u)) (payloadWritten (framePayload u) s) := by
  have hcrc : checksumResult (payloadWritten (framePayload u) s) = crc16 (framePayload u) := by
    rw [← checksumResult_runChecksum _ s]; rfl
  simp only [interpretFrame, hu, hs, if_true]
  rw [emitAll_exactly (k := .obuf) _ (by simp [sinkMemory, hobuf]) (by simpa using hf), andThen_next, ← hcrc]
  rfl

theorem execDecode_ready {s : State} {inp : List Byte} (h : s.Ready inp) :
    ∃ t, execDecode s = .next t ∧ Completes s t (decodeResponse inp) := by
  rw [execDecode, withInput_ready h, unescapeSize_eq, decodeResponse, decodeFrame]
  cases hu : unescape inp with
  | none => exact ⟨_, rfl, .of_noOutput (by simp) rfl⟩
  | some u =>
    have hf : fits s.cfg (framePayload u).length = true :=
      fits_mono (length_framePayload_le u) (h.fits_unescape hu)
    simp only [Option.map_some, scanPass_ready h hu]
    cases hs : frameShaped u with
    | false =>
      rw [interpretFrame_malformed (by simpa using hs)]
      exact ⟨_, rfl, .of_noOutput (by simp) rfl⟩
    | true =>
      rw [interpretFrame_shaped (u := u) (by simp) hs (by simp) (by simpa using hf)]
      refine ⟨_, rfl, .of_output ⟨?_, ?_, ?_⟩ ?_ hf⟩
      · simp [payloadWritten]
      · simp [payloadWritten]
      · simp [payloadWritten]
      · cases crc16 (framePayload u) == frameChecksum u <;> rfl

/-! ### Every command from a ready state -/

theorem exists_commandResponse {i : Instr} (hi : i.format = .cmd) (c : Config) (inp : List Byte) :
    ∃ r, commandResponse c inp i = some r := by
  cases i
  case encode | decode | escape | unescape | checksum => exact ⟨_, rfl⟩
  all_goals cases hi

/-- R181: a command that is ready completes with its response. -/
theorem exec_command_ready {i : Instr} {s : State} {inp : List Byte} {r : Status × List Byte} (h : s.Ready inp)
    (hr : commandResponse s.cfg inp i = some r) : ∃ t, exec i s = .next t ∧ Completes s t r := by
  cases i <;> cases hr
  case encode => exact execEncode_ready h
  case decode => exact execDecode_ready h
  case escape => exact execEscape_ready h
  case unescape => exact execUnescape_ready h
  case checksum => exact execChecksum_ready h

theorem exec_command_eq_withInput {i : Instr} (hi : i.format = .cmd) (s : State) :
    ∃ body, exec i s = withInput s body := by
  cases i
  case encode => exact ⟨_, execEncode.eq_1 s⟩
  case decode => exact ⟨_, execDecode.eq_1 s⟩
  case escape => exact ⟨_, execEscape.eq_1 s⟩
  case unescape => exact ⟨_, execUnescape.eq_1 s⟩
  case checksum => exact ⟨_, execChecksum.eq_1 s⟩
  all_goals cases hi

/-- A command that answers a next state was ready on its input. -/
theorem ready_of_exec_next {i : Instr} {s t : State} (hi : i.format = .cmd) (h : exec i s = .next t) :
    ∃ inp, s.Ready inp := by
  obtain ⟨body, hb⟩ := exec_command_eq_withInput hi s
  exact (withInput_next (hb ▸ h)).imp fun _ h => h.1

/-- A command that answers a next state has completed in it with its response. -/
theorem exec_command_next {i : Instr} {s t : State} (hi : i.format = .cmd) (h : exec i s = .next t) :
    ∃ inp r, commandResponse s.cfg inp i = some r ∧ Completes s t r := by
  obtain ⟨inp, hin⟩ := ready_of_exec_next hi h
  obtain ⟨r, hr⟩ := exists_commandResponse hi s.cfg inp
  obtain ⟨t', ht', hc⟩ := exec_command_ready hin hr
  cases h.symm.trans ht'
  exact ⟨inp, r, hr, hc⟩

end Sys2Proof.Machine

/-! ## Moves of an operation in progress, and what keeps the command -/

namespace Sys2Proof.Machine

/-! ### Decoding from OP and from a result code (R81, R85) -/

theorem decode_cmd_register (op : BitVec 3) :
    decode .cmd [op.setWidth 8] = (decodeCmd op).map (·, []) := by
  revert op; decide

theorem decodeCmd_format {op : BitVec 3} {i : Instr} (h : decodeCmd op = .ok i) : i.format = .cmd := by
  unfold decodeCmd at h
  split_ifs at h <;> cases h <;> rfl

/-- R84: every code below 5 selects an operation. -/
theorem exists_decodeCmd {op : BitVec 3} (h : op.toNat < 5) : ∃ i, decodeCmd op = .ok i := by
  have ⟨i, _, hi⟩ : ∃ i ∈ [Instr.encode, .decode, .escape, .unescape, .checksum], decodeCmd op = .ok i := by
    revert op; decide
  exact ⟨i, hi⟩

theorem decode_rsp_register (c : BitVec 2) : decode .rsp [c.setWidth 8] = .ok (decodeRsp c, []) := by
  revert c; decide

/-! ### A step in each phase -/

theorem step_of_decode_cmd {s : State} {i : Instr} {rest : List Byte} (hp : s.phase = .idle)
    (hw : s.opWritten = true) (hd : decode .cmd [s.op.setWidth 8] = .ok (i, rest)) : step s = exec i s := by
  simp [step, fetch, hp, fetchCommand, hw, hd]

theorem step_of_decode_wire {s : State} {i : Instr} {b : Byte} {bs rest : List Byte} (hp : s.phase = .scan)
    (hr : remaining s = some (b :: bs)) (hd : decode .wire (b :: bs) = .ok (i, rest)) : step s = exec i s := by
  simp [step, fetch, hp, fetchSymbol, hr, hd]

theorem step_of_decode_rsp {s : State} {i : Instr} {c : BitVec 2} {rest : List Byte} (hp : s.phase = .respond c)
    (hd : decode .rsp [c.setWidth 8] = .ok (i, rest)) : step s = exec i s := by
  simp [step, fetch, hp, fetchResult, hd]

theorem step_of_decodeCmd {s : State} {i : Instr} (hp : s.phase = .idle) (hw : s.opWritten = true)
    (hd : decodeCmd s.op = .ok i) : step s = exec i s :=
  step_of_decode_cmd hp hw (by rw [decode_cmd_register, hd]; rfl)

/-- A step with no operation in progress that answers a next state has run a command. -/
theorem step_idle_next {s t : State} (hp : s.phase = .idle) (h : step s = .next t) :
    ∃ i, i.format = .cmd ∧ exec i s = .next t := by
  cases hw : s.opWritten with
  | false => simp [step, fetch, hp, fetchCommand, hw] at h
  | true =>
    cases hd : decodeCmd s.op with
    | error e => simp [step, fetch, hp, fetchCommand, hw, decode_cmd_register, hd, Except.map] at h
    | ok i => exact ⟨i, decodeCmd_format hd, (step_of_decodeCmd hp hw hd).symm.trans h⟩

/-- R183 to R186: the result code of the operation in progress completes it. -/
theorem step_respond {s : State} {c : BitVec 2} (hp : s.phase = .respond c) :
    step s = .next (finish (Status.ofCode c) s) := by
  rw [step_of_decode_rsp hp (decode_rsp_register c)]
  obtain ⟨st, rfl⟩ : ∃ st : Status, c = st.code := ⟨Status.ofCode c, (Status.code_ofCode c).symm⟩
  have hcode : ∀ body, whenResponding st s body = body s := fun body => by simp [whenResponding, hp]
  rw [Status.ofCode_code]
  cases st <;> exact hcode _

theorem step_scan_end {s : State} (hp : s.phase = .scan) (hr : remaining s = some []) : step s = endScan s := by
  simp [step, fetch, hp, fetchSymbol, hr]

/-- R141, R91: a byte that is no escape marker, boundary or data, is emitted as it stands. -/
theorem step_scan_byte {s : State} {b : Byte} {rest : List Byte} (hp : s.phase = .scan)
    (hr : remaining s = some (b :: rest)) (hb : b ≠ ESC) : step s = consumeByte (sinkOf s) b s := by
  by_cases hB : b = BOUNDARY
  · rw [step_of_decode_wire (i := .boundary) (rest := rest) hp hr (by simp [decode, decodeWire, hB]), hB]
    simp [exec, execBoundary, whenScanning, hp]
  · rw [step_of_decode_wire (i := .data b) (rest := rest) hp hr (by simp [decode, decodeWire, hB, hb])]
    simp [exec, execData, whenScanning, hp]

theorem step_scan_pair {s : State} {v : Byte} {rest : List Byte} (hp : s.phase = .scan)
    (hr : remaining s = some (ESC :: v :: rest)) : step s = consumePair (sinkOf s) v s := by
  rw [step_of_decode_wire (i := .escpair v) (rest := rest) hp hr (by simp [decode, decodeWire]; decide)]
  simp [exec, execEscpair, whenScanning, hp]

/-! ### What keeps the command -/

theorem emit_sameCommand {k : Sink} {b : Byte} {s t : State} (h : emit k b s = .next t) : SameCommand s t := by
  unfold emit at h
  split at h
  · cases k <;> cases h <;> constructor <;> rfl
  · cases h

theorem emit_advance_sameCommand {k : Sink} {b : Byte} {n : Nat} {s t : State}
    (h : andThen (emit k b s) (fun s => .next (advance n s)) = .next t) : SameCommand s t := by
  obtain ⟨u, hu, hut⟩ := andThen_eq_next h
  cases hut
  simpa using emit_sameCommand hu

theorem whenScanning_next {s t : State} {body : State → Result} (h : whenScanning s body = .next t) :
    body s = .next t := by
  unfold whenScanning at h
  split at h
  · exact h
  · cases h

theorem whenResponding_complete_next {st : Status} {s t : State}
    (h : whenResponding st s (complete st) = .next t) : t = finish st s := by
  unfold whenResponding at h
  split at h
  · cases h; rfl
  · cases h

theorem exec_sameCommand {i : Instr} {s t : State} (h : exec i s = .next t) : SameCommand s t := by
  cases hf : i.format with
  | cmd =>
    obtain ⟨inp, r, -, hc⟩ := exec_command_next hf h
    exact hc.same
  | rsp =>
    cases i
    case ok | checksumMismatch | malformedFrame | allocationFailure =>
      rw [whenResponding_complete_next h]; exact finish_sameCommand _ s
    all_goals cases hf
  | wire =>
    cases i
    case boundary | escpair | data => exact emit_advance_sameCommand (whenScanning_next h)
    all_goals cases hf

/-! ### Which STATUS a response has (R35) -/

theorem cappedResponse_status (c : Config) (out : List Byte) :
    (cappedResponse c out).1 = .ok ∨ (cappedResponse c out).1 = .allocationFailure := by
  unfold cappedResponse
  split <;> simp

theorem unescapeResponse_status (inp : List Byte) :
    (unescapeResponse inp).1 = .ok ∨ (unescapeResponse inp).1 = .malformedFrame := by
  unfold unescapeResponse
  split <;> simp

theorem decodeResponse_status (inp : List Byte) :
    (decodeResponse inp).1 = .ok ∨ (decodeResponse inp).1 = .checksumMismatch ∨
      (decodeResponse inp).1 = .malformedFrame := by
  unfold decodeResponse
  split
  · simp
  · next p verified _ => cases verified <;> simp [statusOfVerified]

theorem Completes.olen_of_error {s t : State} {r : Status × List Byte} (h : Completes s t r)
    (hst : t.status = 2 ∨ t.status = 3) : t.olen = 0 := by
  have ho : r.1.hasOutput = false := by
    rw [h.delivers.status] at hst
    cases hr : r.1 <;> simp [hr, Status.code, Status.hasOutput] at hst ⊢
  simp [h.delivers.olen, h.noOutput ho]

end Sys2Proof.Machine

/-! ## The invariant -/

namespace Sys2Proof.Machine

/-! ### The invariant, phase by phase -/

/-- The invariant's part about a scan in progress, said through the space that the scan writes. -/
structure ScanInv (s : State) : Prop where
  done : s.done = false
  op : s.op = 1 ∨ s.op = 3
  ilenWritten : s.ilenWritten = true
  cur_le : s.cur ≤ s.ilen
  wr_le : s.wr ≤ s.cur
  input : (s.ibuf.bytes 0 s.ilen).isSome
  cbuf : s.cbuf = []
  pending : ∃ bs out, remaining s = some bs ∧ unescape bs = some out ∧ s.wr + out.length = s.need
  sink : (sinkMemory (sinkOf s) s).Exactly s.wr
  ubuf : sinkOf s = .obuf → s.ubuf = []
  obuf : sinkOf s = .ubuf → s.obuf = []

theorem phaseInv_idle_iff {s : State} (hp : s.phase = .idle) :
    s.PhaseInv ↔ s.cbuf = [] ∧ s.ubuf = [] ∧ (s.done = false → s.obuf = []) ∧
      (s.done = true → s.obuf.Exactly s.olen ∧ fits s.cfg s.olen = true ∧
        ((Status.ofCode s.status).hasOutput = false → s.olen = 0)) := by
  simp only [State.PhaseInv, hp]

theorem phaseInv_scan_iff {s : State} (hp : s.phase = .scan) : s.PhaseInv ↔ ScanInv s := by
  simp only [State.PhaseInv, hp]
  constructor
  · rintro ⟨hdone, hop, hilen, hcur, hwr, hin, hcbuf, hpending, hsink⟩
    cases hk : sinkOf s with
    | obuf =>
      rw [hk] at hsink
      exact ⟨hdone, hop, hilen, hcur, hwr, hin, hcbuf, hpending, by rw [hk]; exact hsink.1, fun _ => hsink.2,
        by simp [hk]⟩
    | ubuf =>
      rw [hk] at hsink
      exact ⟨hdone, hop, hilen, hcur, hwr, hin, hcbuf, hpending, by rw [hk]; exact hsink.1, by simp [hk],
        fun _ => hsink.2⟩
  · rintro ⟨hdone, hop, hilen, hcur, hwr, hin, hcbuf, hpending, hsink, hubuf, hobuf⟩
    refine ⟨hdone, hop, hilen, hcur, hwr, hin, hcbuf, hpending, ?_⟩
    cases hk : sinkOf s with
    | obuf => rw [hk] at hsink; exact ⟨hsink, hubuf hk⟩
    | ubuf => rw [hk] at hsink; exact ⟨hsink, hobuf hk⟩

theorem phaseInv_respond_iff {s : State} {c : BitVec 2} (hp : s.phase = .respond c) :
    s.PhaseInv ↔ s.done = false ∧ ((Status.ofCode c).hasOutput = true →
      s.obuf.Exactly s.wr ∧ fits s.cfg s.wr = true ∧ s.wr = s.need) := by
  simp only [State.PhaseInv, hp]

/-- The invariant of a state whose command is that of a state of the invariant and whose spaces list the bytes from 0
up. -/
theorem State.Inv.of_exactly {s t : State} {m n : Nat} (hs : s.Inv) (same : SameCommand s t)
    (hobuf : t.obuf.Exactly m) (hm : fits s.cfg m = true) (hubuf : t.ubuf.Exactly n) (hn : fits s.cfg n = true)
    (hcbuf : t.cbuf = []) (hp : t.PhaseInv) : t.Inv where
  ibufWf := by rw [same.ibuf]; exact hs.ibufWf
  ibufInside := by rw [same.ibuf, same.cfg]; exact hs.ibufInside
  ilenFits := by rw [same.ilen, same.cfg]; exact hs.ilenFits
  obufWf := hobuf.wf
  obufInside := by rw [same.cfg]; exact hobuf.inside hm
  cbufWf := by simp [hcbuf]
  cbufInside := by simp [hcbuf, Memory.indices]
  ubufWf := hubuf.wf
  ubufInside := by rw [same.cfg]; exact hubuf.inside hn
  phase := hp

/-! ### Reset -/

theorem State.resetWith_inv (c : Config) (n : Nat) : (State.resetWith c n).Inv where
  ibufWf := (State.resetWith_wf c n).1
  ibufInside := by simp [Memory.indices]
  ilenFits := fits_zero c
  obufWf := by simp
  obufInside := by simp [Memory.indices]
  cbufWf := by simp
  cbufInside := by simp [Memory.indices]
  ubufWf := by simp
  ubufInside := by simp [Memory.indices]
  phase := (phaseInv_idle_iff rfl).2 (by simp)

/-! ### The end of an operation -/

/-- R25, R34: a completed operation meets the invariant. -/
theorem Completes.inv {s t : State} {r : Status × List Byte} (h : Completes s t r) (hs : s.Inv) : t.Inv := by
  obtain ⟨hdone, hst, holen, hobuf, hidle⟩ := h.delivers
  have hex : t.obuf.Exactly t.olen := by rw [hobuf, holen]; exact Memory.ofBytes_exactly _
  have hfit : fits s.cfg t.olen = true := by rw [holen]; exact h.outputFits
  refine hs.of_exactly h.same hex hfit (n := 0) (by simp [h.ubuf]) (fits_zero _) h.cbuf ?_
  have hempty : (Status.ofCode t.status).hasOutput = false → t.olen = 0 := fun ho => by
    rw [hst, Status.ofCode_code] at ho
    simp [holen, h.noOutput ho]
  exact (phaseInv_idle_iff hidle).2 ⟨h.cbuf, h.ubuf, by simp [hdone], fun _ =>
    ⟨hex, by rw [h.same.cfg]; exact hfit, hempty⟩⟩

/-- R183 to R186: from a state of the invariant that holds a result code, the operation completes. -/
theorem finish_completes {s : State} {c : BitVec 2} (hs : s.Inv) (hp : s.phase = .respond c) :
    ∃ r, Completes s (finish (Status.ofCode c) s) r := by
  obtain ⟨-, hout⟩ := (phaseInv_respond_iff hp).1 hs.phase
  cases ho : (Status.ofCode c).hasOutput with
  | false => exact ⟨_, .of_noOutput (SameCommand.refl s) ho⟩
  | true =>
    obtain ⟨hex, hfit, -⟩ := hout ho
    obtain ⟨hobuf, hlen⟩ := hex.eq_ofBytes
    exact ⟨_, .of_output ⟨SameCommand.refl s, hobuf, hlen.symm⟩ ho (by rw [hlen]; exact hfit)⟩

/-- A result without output may be delivered whatever has been written. -/
theorem inPhase_malformed_inv {s : State} (hs : s.Inv) (hd : s.done = false) :
    (inPhase (.respond Status.malformedFrame.code) s).Inv :=
  { hs with phase := (phaseInv_respond_iff rfl).2 ⟨hd, by simp [Status.hasOutput]⟩ }

/-! ### A scan in progress -/

namespace ScanInv

variable {s : State}

theorem wr_fits (h : ScanInv s) (hs : s.Inv) : fits s.cfg s.wr = true :=
  fits_mono (h.wr_le.trans h.cur_le) hs.ilenFits

/-- Before the end of its input a scan has room for one more byte. -/
theorem wr_succ_fits (h : ScanInv s) (hs : s.Inv) {b : Byte} {bs : List Byte} (hr : remaining s = some (b :: bs)) :
    fits s.cfg (s.wr + 1) = true := by
  have hl : (b :: bs).length = s.ilen - s.cur := Memory.bytes_length hr
  have := h.wr_le
  simp only [List.length_cons] at hl
  exact fits_mono (by omega) hs.ilenFits

theorem sink_obuf (h : ScanInv s) (hk : sinkOf s = .obuf) : s.obuf.Exactly s.wr := by
  have := h.sink; rwa [hk] at this

theorem sink_ubuf (h : ScanInv s) (hk : sinkOf s = .ubuf) : s.ubuf.Exactly s.wr := by
  have := h.sink; rwa [hk] at this

/-- A state `t` in a scan meets the invariant when its command is that of a state `s` that does. -/
theorem inv_of_same {t : State} (h : ScanInv t) (hs : s.Inv) (same : SameCommand s t) (hp : t.phase = .scan) :
    t.Inv := by
  have hw : fits s.cfg t.wr = true :=
    fits_mono (h.wr_le.trans h.cur_le) (by rw [same.ilen]; exact hs.ilenFits)
  have hphase := (phaseInv_scan_iff hp).2 h
  cases hk : sinkOf t with
  | obuf => exact hs.of_exactly same (h.sink_obuf hk) hw (n := 0) (by simp [h.ubuf hk]) (fits_zero _) h.cbuf hphase
  | ubuf => exact hs.of_exactly same (m := 0) (by simp [h.obuf hk]) (fits_zero _) (h.sink_ubuf hk) hw h.cbuf hphase

/-- R141: the scan has consumed a symbol of `n` bytes and emitted one byte. -/
theorem scanned_symbol (h : ScanInv s) {bs out : List Byte} {n : Nat} (b : Byte) (hr : remaining s = some bs)
    (hn : 1 ≤ n) (hle : n ≤ bs.length) (hu : unescape (bs.drop n) = some out)
    (hneed : s.wr + 1 + out.length = s.need) : ScanInv (scanned (sinkOf s) n [b] s) := by
  have hl : bs.length = s.ilen - s.cur := Memory.bytes_length hr
  have hwr := h.wr_le
  have hrem : remaining (scanned (sinkOf s) n [b] s) = some (bs.drop n) := by
    have := Memory.bytes_drop hr n (by omega)
    simpa [remaining, Nat.sub_add_eq] using this
  have hsink : sinkOf (scanned (sinkOf s) n [b] s) = sinkOf s := by simp [sinkOf]
  exact {
    done := by simp [h.done]
    op := by simpa using h.op
    ilenWritten := by simp [h.ilenWritten]
    cur_le := by simp; omega
    wr_le := by simp; omega
    input := by simpa using h.input
    cbuf := by simp [h.cbuf]
    pending := ⟨_, out, hrem, hu, by simpa using hneed⟩
    sink := by rw [hsink]; exact scanned_exactly h.sink n [b]
    ubuf := fun hk => by rw [hsink] at hk; rw [hk]; exact h.ubuf hk
    obuf := fun hk => by rw [hsink] at hk; rw [hk]; exact h.obuf hk }

/-- A step of a scan from a state of the invariant either consumes one symbol, of one or two bytes, and emits one byte,
or ends the scan. It never stands at a lone escape marker. -/
theorem step_eq (h : ScanInv s) (hs : s.Inv) (hp : s.phase = .scan) :
    (∃ b n, step s = .next (scanned (sinkOf s) n [b] s) ∧ ScanInv (scanned (sinkOf s) n [b] s)) ∨
      (remaining s = some [] ∧ s.wr = s.need ∧ step s = endScan s) := by
  obtain ⟨bs, out, hr, hu, hneed⟩ := h.pending
  cases bs with
  | nil =>
    cases hu
    exact .inr ⟨hr, by simpa using hneed, step_scan_end hp hr⟩
  | cons b rest =>
    left
    have hf := h.wr_succ_fits hs hr
    by_cases hb : b = ESC
    · subst hb
      cases rest with
      | nil => cases hu
      | cons v rest =>
        rw [unescape_cons_pair] at hu
        obtain ⟨o, ho, rfl⟩ := Option.map_eq_some_iff.1 hu
        refine ⟨v ^^^ MASK, 2, ?_, h.scanned_symbol _ hr (by omega) (by simp) ho ?_⟩
        · rw [step_scan_pair hp hr, consumePair_exactly h.sink hf]; rfl
        · simp only [List.length_cons] at hneed; omega
    · rw [unescape_cons_data hb] at hu
      obtain ⟨o, ho, rfl⟩ := Option.map_eq_some_iff.1 hu
      refine ⟨b, 1, ?_, h.scanned_symbol _ hr (by omega) (by simp) ho ?_⟩
      · rw [step_scan_byte hp hr hb, consumeByte_exactly h.sink hf]; rfl
      · simp only [List.length_cons] at hneed; omega

/-- R147, R164: the end of a scan answers a state that holds the operation's result. -/
theorem endScan_inv (h : ScanInv s) (hs : s.Inv) (hneed : s.wr = s.need) : ∃ t, endScan s = .next t ∧ t.Inv := by
  have hw := h.wr_fits hs
  cases hk : sinkOf s with
  | obuf =>
    refine ⟨inPhase (.respond Status.ok.code) s, by rw [endScan, hk]; rfl, ?_⟩
    exact hs.of_exactly (by simp) (h.sink_obuf hk) hw (n := 0) (by simp [h.ubuf hk]) (fits_zero _)
      h.cbuf ((phaseInv_respond_iff rfl).2 ⟨h.done, fun _ => ⟨h.sink_obuf hk, hw, hneed⟩⟩)
  | ubuf =>
    cases hshape : frameShaped s.ubuf.values with
    | false =>
      exact ⟨_, by rw [endScan, hk]; exact interpretFrame_malformed hshape, inPhase_malformed_inv hs h.done⟩
    | true =>
      have hlen : s.ubuf.values.length = s.wr := (h.sink_ubuf hk).eq_ofBytes.2
      have hf : fits s.cfg (framePayload s.ubuf.values).length = true :=
        fits_mono (hlen ▸ length_framePayload_le _) hw
      refine ⟨_, by rw [endScan, hk]; exact interpretFrame_shaped rfl hshape (h.obuf hk) hf, ?_⟩
      have hex : (payloadWritten (framePayload s.ubuf.values) s).obuf.Exactly
          (framePayload s.ubuf.values).length := by
        simpa [payloadWritten, h.obuf hk] using Memory.ofBytes_exactly (framePayload s.ubuf.values)
      refine hs.of_exactly (by simp [payloadWritten]) hex hf
        (by simpa [payloadWritten] using h.sink_ubuf hk) hw (by simpa [payloadWritten] using h.cbuf)
        ((phaseInv_respond_iff rfl).2 ⟨by simpa [payloadWritten] using h.done, fun _ => ?_⟩)
      simpa [payloadWritten] using And.intro hex hf

/-- From a state of the invariant a scan in progress makes its next move and keeps the invariant. -/
theorem step_inv (h : ScanInv s) (hs : s.Inv) (hp : s.phase = .scan) : ∃ t, step s = .next t ∧ t.Inv := by
  rcases h.step_eq hs hp with ⟨b, n, hstep, hscan⟩ | ⟨-, hneed, hstep⟩
  · exact ⟨_, hstep, hscan.inv_of_same hs (by simp) (by simp [hp])⟩
  · rw [hstep]; exact h.endScan_inv hs hneed

end ScanInv

/-! ### Every step -/

theorem step_keeps_inv {s t : State} (hs : s.Inv) (h : step s = .next t) : t.Inv := by
  cases hp : s.phase with
  | idle =>
    obtain ⟨i, hi, he⟩ := step_idle_next hp h
    obtain ⟨inp, r, -, hc⟩ := exec_command_next hi he
    exact hc.inv hs
  | scan =>
    obtain ⟨u, hu, hinv⟩ := ((phaseInv_scan_iff hp).1 hs.phase).step_inv hs hp
    cases hu.symm.trans h
    exact hinv
  | respond c =>
    cases (step_respond hp).symm.trans h
    obtain ⟨r, hc⟩ := finish_completes hs hp
    exact hc.inv hs

/-! ### Every move of the host -/

theorem whenIdle_next {s t : State} {body : State → Result} (h : whenIdle s body = .next t) :
    s.phase = .idle ∧ body s = .next t := by
  unfold whenIdle at h
  split at h
  · exact ⟨‹_›, h⟩
  · cases h

theorem begin_inv {s : State} (hs : s.Inv) (hp : s.phase = .idle) : (begin s).Inv :=
  hs.of_exactly (m := 0) (n := 0) (begin_sameCommand s) (by simp) (fits_zero _) (by simp) (fits_zero _) rfl
    ((phaseInv_idle_iff (s := begin s) hp).2 (by simp))

/-- R28: ILEN takes a value that fits; with no operation in progress the invariant's last part does not speak of the
command registers. -/
theorem putIlen_inv {s : State} {n : Nat} (hs : s.Inv) (hp : s.phase = .idle) (hn : fits s.cfg n = true) :
    (putIlen n s).Inv :=
  { hs with ilenFits := hn, phase := by simpa [phaseInv_idle_iff, hp] using hs.phase }

theorem putOp_inv {s : State} (v : BitVec 3) (hs : s.Inv) (hp : s.phase = .idle) : (putOp v s).Inv :=
  { hs with phase := by simpa [phaseInv_idle_iff, hp] using hs.phase }

theorem putIbuf_inv {s : State} {i : Nat} (b : Byte) (hs : s.Inv) (hp : s.phase = .idle)
    (hi : indexExists s.cfg i = true) : (putIbuf i b s).Inv :=
  { hs with
    ibufWf := Memory.write_wf i b hs.ibufWf
    ibufInside := Memory.write_inside b hi hs.ibufInside
    phase := by simpa [phaseInv_idle_iff, hp] using hs.phase }

/-- The counter of free values is nothing the invariant speaks of, in any phase. -/
theorem drawn_inv {s : State} (hs : s.Inv) : (drawn s).Inv := { hs with phase := hs.phase }

/-- R59: what a host read may leave behind. -/
theorem inv_of_read {s t : State} (hs : s.Inv) (ht : t = s ∨ t = drawn s) : t.Inv := by
  rcases ht with rfl | rfl
  · exact hs
  · exact drawn_inv hs

theorem readOp_state (s : State) : (readOp s).2 = s ∨ (readOp s).2 = drawn s := by
  unfold readOp; split <;> simp

theorem readStatus_state (s : State) : (readStatus s).2 = s ∨ (readStatus s).2 = drawn s := by
  unfold readStatus; split <;> simp

theorem readOlen_state (s : State) : (readOlen s).2 = s ∨ (readOlen s).2 = drawn s := by
  unfold readOlen; split <;> simp

theorem obufByte_state (i : Nat) (s : State) : (obufByte i s).2 = s ∨ (obufByte i s).2 = drawn s := by
  unfold obufByte
  split
  · split <;> simp
  · simp

theorem hostMove_readOp_next {s t : State} (h : hostMove .readOp s = .next t) : t = (readOp s).2 := by
  simp only [hostMove, whenIdle] at h
  split_ifs at h
  cases h
  rfl

theorem hostMove_readObuf_next {i : Nat} {s t : State} (h : hostMove (.readObuf i) s = .next t) :
    t = (obufByte i s).2 := by
  simp only [hostMove, readObuf] at h
  split_ifs at h
  cases h
  rfl

/-- R143: the state in which the output pass stands at the first symbol of an input that unescapes. -/
theorem scanStart_inv {s : State} {inp out : List Byte} (hs : s.Inv) (h : s.Ready inp) (hop : s.op = 1 ∨ s.op = 3)
    (hu : unescape inp = some out) :
    (inPhase .scan (startOutput (startScan (withNeed out.length (begin s))))).Inv := by
  have hscan : ScanInv (inPhase .scan (startOutput (startScan (withNeed out.length (begin s))))) := {
    done := rfl
    op := hop
    ilenWritten := h.ilenWritten
    cur_le := Nat.zero_le _
    wr_le := le_refl _
    input := by simp [h.input]
    cbuf := rfl
    pending := ⟨inp, out, by simpa [remaining] using h.input, hu, by simp⟩
    sink := by generalize sinkOf _ = k; cases k <;> exact Memory.exactly_nil
    ubuf := fun _ => rfl
    obuf := fun _ => rfl }
  exact hscan.inv_of_same hs (by simp) rfl

theorem beginScan_keeps_inv {s t : State} (hs : s.Inv) (hop : s.op = 1 ∨ s.op = 3) (h : beginScan s = .next t) :
    t.Inv := by
  obtain ⟨inp, hin, hb⟩ := withInput_next h
  rw [unescapeSize_eq] at hb
  cases hu : unescape inp with
  | none =>
    rw [hu] at hb
    cases hb
    exact inPhase_malformed_inv (begin_inv hs hin.idle) rfl
  | some out =>
    rw [hu] at hb
    cases hb
    exact scanStart_inv hs hin hop hu

theorem startTimed_keeps_inv {s t : State} (hs : s.Inv) (h : startTimed s = .next t) : t.Inv := by
  obtain ⟨-, hb⟩ := whenIdle_next h
  split at hb
  · next hop => exact beginScan_keeps_inv hs hop.2 hb
  · exact step_keeps_inv hs hb

theorem wait_keeps_inv {s t : State} (hs : s.Inv) (h : wait s = .next t) : t.Inv := by
  unfold wait at h
  split at h
  · cases h; exact hs
  · exact step_keeps_inv hs h

theorem writeOp_keeps_inv {s t : State} {v : BitVec 3} (hs : s.Inv) (h : writeOp v s = .next t) : t.Inv := by
  obtain ⟨hp, hb⟩ := whenIdle_next h
  cases hb
  exact putOp_inv v hs hp

theorem writeIlen_keeps_inv {s t : State} {n : Nat} (hs : s.Inv) (h : writeIlen n s = .next t) : t.Inv := by
  obtain ⟨hp, hb⟩ := whenIdle_next h
  split at hb
  · next hn => cases hb; exact putIlen_inv hs hp hn
  · cases hb

theorem writeIbuf_keeps_inv {s t : State} {i : Nat} {b : Byte} (hs : s.Inv) (h : writeIbuf i b s = .next t) :
    t.Inv := by
  obtain ⟨hp, hb⟩ := whenIdle_next h
  split at hb
  · next hi => cases hb; exact putIbuf_inv b hs hp hi
  · cases hb

theorem hostMove_keeps_inv {m : HostMove} {s t : State} (hs : s.Inv) (h : hostMove m s = .next t) : t.Inv := by
  cases m with
  | writeOp v => exact writeOp_keeps_inv hs h
  | writeIlen n => exact writeIlen_keeps_inv hs h
  | writeIbuf i b => exact writeIbuf_keeps_inv hs h
  | start => exact step_keeps_inv hs (whenIdle_next h).2
  | startTimed => exact startTimed_keeps_inv hs h
  | wait => exact wait_keeps_inv hs h
  | reset => cases h; exact State.resetWith_inv s.cfg s.draws
  | readOp => rw [hostMove_readOp_next h]; exact inv_of_read hs (readOp_state s)
  | readDone => cases h; exact hs
  | readStatus => cases h; exact inv_of_read hs (readStatus_state s)
  | readOlen => cases h; exact inv_of_read hs (readOlen_state s)
  | readObuf i => rw [hostMove_readObuf_next h]; exact inv_of_read hs (obufByte_state i s)

end Sys2Proof.Machine

/-! ## The obligations of the block's state, settled -/

namespace Sys2Proof.Proofs

open Sys2Proof.Machine

/-- Settles O5: what the fetch finds in each phase is the decoder's answer. -/
theorem stepRunsTheDecodedInstruction : Obligations.StepRunsTheDecodedInstruction := fun _ _ _ =>
  ⟨step_of_decode_cmd, fun _ _ => step_of_decode_wire, fun _ => step_of_decode_rsp⟩

/-- Settles O43: a command completes with its own registers as they were, a result code only finishes the operation,
and a wire symbol writes one byte and moves the cursor. -/
theorem noInstructionChangesTheCommand : Obligations.NoInstructionChangesTheCommand := fun _ _ _ =>
  exec_sameCommand

/-- Settles O44, from the response that the command completes with. -/
theorem statusValuesByOperation : Obligations.StatusValuesByOperation := by
  intro i s t hi h
  obtain ⟨inp, r, hr, hc⟩ := exec_command_next hi h
  have hfit : fits s.cfg t.olen = true := by rw [hc.delivers.olen]; exact hc.outputFits
  refine ⟨?_, ?_, ?_, hc.olen_of_error, hfit⟩
  · intro hi
    have hst : r.1 = .ok ∨ r.1 = .allocationFailure := by
      rcases hi with rfl | rfl | rfl <;> cases hr <;> exact cappedResponse_status _ _
    rw [hc.delivers.status]
    exact hst.imp (congrArg Status.code) (congrArg Status.code)
  · rintro rfl
    cases hr
    rw [hc.delivers.status]
    exact (unescapeResponse_status inp).imp (congrArg Status.code) (congrArg Status.code)
  · rintro rfl
    cases hr
    rw [hc.delivers.status]
    exact (decodeResponse_status inp).imp (congrArg Status.code)
      (Or.imp (congrArg Status.code) (congrArg Status.code))

/-- Settles O45: both states run the same command on the same input, and its response is a function of the capacity
and the input. -/
theorem responseDependsOnTheCommandAlone : Obligations.ResponseDependsOnTheCommandAlone := by
  intro s u inp hs hu hsw huw hop hcfg hlt
  obtain ⟨i, hi⟩ := exists_decodeCmd hlt
  obtain ⟨r, hr⟩ := exists_commandResponse (decodeCmd_format hi) s.cfg inp
  obtain ⟨t, ht, hst⟩ := exec_command_ready hs hr
  obtain ⟨v, hv, huv⟩ := exec_command_ready hu (hcfg ▸ hr)
  exact ⟨t, v, r, (step_of_decodeCmd hs.idle hsw hi).trans ht, (step_of_decodeCmd hu.idle huw (hop ▸ hi)).trans hv,
    hst.response, huv.response⟩

/-- Settles O49, with `State.reset` as the reset state of unbounded capacity. -/
theorem resetMeetsTheInvariant : Obligations.ResetMeetsTheInvariant :=
  ⟨State.resetWith_inv, State.resetWith_inv _ _⟩

/-- Settles O50, phase by phase: a command completes, a scan consumes a symbol or ends, a result code is delivered. -/
theorem stepKeepsTheInvariant : Obligations.StepKeepsTheInvariant := fun _ _ => step_keeps_inv

/-- Settles O51, move by move. -/
theorem hostMovesKeepTheInvariant : Obligations.HostMovesKeepTheInvariant := fun _ _ _ => hostMove_keeps_inv

/-- Settles O56: each write is its update of the state (`putOp`, `putIlen`, `putIbuf`) or stops on the capacity test. -/
theorem hostWritesTakeEffect : Obligations.HostWritesTakeEffect := by
  intro s hp
  refine ⟨fun v => ⟨putOp v s, ?_, rfl⟩, fun n hn => ?_, fun n hn => ?_, fun i b hi => ⟨putIbuf i b s, ?_, ?_, ?_⟩,
    fun i b hi => ?_⟩
  · simp [hostMove, writeOp, whenIdle, hp]
  · simp [hostMove, writeIlen, whenIdle, hp, hn, putIlen]
  · simp [hostMove, writeIlen, whenIdle, hp, hn]
  · simp [hostMove, writeIbuf, whenIdle, hp, hi]
  · exact Memory.read_write_same s.ibuf i b
  · exact fun j hj => Memory.read_write_other s.ibuf i j b hj
  · simp [hostMove, writeIbuf, whenIdle, hp, hi]

end Sys2Proof.Proofs

/-! ## Storage, steps and instances

What the obligations about the block's memory need beyond the lemmas above: one entry of a stored output, what a wire
symbol and a result code are once the decoder has named them, the steps that cannot fault, and the moves of one
block among several. -/

namespace Sys2Proof.Machine

/-! ### Bytes and the words assembled from them (R52, R54) -/

/-- R52, R90: `low` and `high` are the two halves of a word, and `word16` puts them back bit by bit. -/
theorem word16_low_high (c : Word16) : word16 (low c) (high c) = c := by
  ext i hi
  rw [← BitVec.getLsbD_eq_getElem, ← BitVec.getLsbD_eq_getElem]
  by_cases h : i < 8
  · simp [word16, low, high, h, hi]
  · have hlow : i - 8 < 8 := by omega
    simp [word16, low, high, h, hi, hlow, show 8 + (i - 8) = i by omega]

theorem Memory.read_ofBytes (k i : Nat) (bs : List Byte) : (Memory.ofBytes k bs).read (k + i) = bs[i]? := by
  induction bs generalizing k i with
  | nil => rfl
  | cons b bs ih =>
    cases i with
    | zero => simp [Memory.ofBytes, Memory.read]
    | succ i =>
      have hne : k + (i + 1) ≠ k := by omega
      simpa [Memory.ofBytes, Memory.read, hne, Nat.add_assoc, Nat.add_comm 1] using ih (k + 1) i

/-! ### Wire symbols and result codes (R91, R85) -/

/-- R24, R25, R50: a write at an index of `CAP` or more. -/
theorem emit_outside {s : State} (k : Sink) (b : Byte) (h : indexExists s.cfg s.wr = false) :
    emit k b s = .fault (.indexOutside k.space) := by
  simp [emit, h]

/-- R141: every wire symbol is one byte written and a move of the cursor, inside a scan. -/
theorem exec_wire_eq {i : Instr} (hi : i.format = .wire) (s : State) :
    ∃ b n, exec i s = whenScanning s fun s => andThen (emit (sinkOf s) b s) fun s => .next (advance n s) := by
  cases i
  case boundary => exact ⟨BOUNDARY, 1, rfl⟩
  case escpair v => exact ⟨v ^^^ MASK, 2, rfl⟩
  case data d => exact ⟨d, 1, rfl⟩
  all_goals cases hi

theorem exec_wire_of_not_scan {i : Instr} {s : State} (hi : i.format = .wire) (hp : s.phase ≠ .scan) :
    exec i s = .refused .nothingInProgress := by
  obtain ⟨b, n, he⟩ := exec_wire_eq hi s
  rw [he, whenScanning, if_neg hp]

theorem exec_wire_outside {i : Instr} {s : State} (hi : i.format = .wire) (hp : s.phase = .scan)
    (hw : indexExists s.cfg s.wr = false) : exec i s = .fault (.indexOutside (sinkOf s).space) := by
  obtain ⟨b, n, he⟩ := exec_wire_eq hi s
  rw [he, whenScanning, if_pos hp, emit_outside _ _ hw, andThen_fault]

/-- R183 to R186: every result code completes the operation that is about to deliver it. -/
theorem exec_decodeRsp (c : BitVec 2) (s : State) :
    exec (decodeRsp c) s = whenResponding (Status.ofCode c) s (complete (Status.ofCode c)) := by
  obtain ⟨st, rfl⟩ : ∃ st : Status, c = st.code := ⟨Status.ofCode c, (Status.code_ofCode c).symm⟩
  rw [Status.ofCode_code]
  cases st <;> rfl

/-! ### A START (R29, R181) -/

/-- R84, R213: with no operation in progress OP has been written and selects a command, or the step is refused. -/
theorem selects_or_step_refused {s : State} (hp : s.phase = .idle) :
    (s.opWritten = true ∧ ∃ i, decodeCmd s.op = .ok i) ∨ ∃ q, step s = .refused q := by
  cases hw : s.opWritten with
  | false => exact .inr ⟨.commandNotWritten, by simp [step, fetch, hp, fetchCommand, hw]⟩
  | true =>
    cases hd : decodeCmd s.op with
    | error e =>
      exact .inr ⟨.reservedOpcode s.op, by
        simp [step, fetch, hp, fetchCommand, hw, decode_cmd_register, hd, Except.map]⟩
    | ok i => exact .inl ⟨rfl, i, rfl⟩

/-- A step with no operation in progress that answers a next state has completed the command in OP, which was ready. -/
theorem step_idle_completes {s t : State} (hp : s.phase = .idle) (h : step s = .next t) :
    ∃ i inp r, s.opWritten = true ∧ decodeCmd s.op = .ok i ∧ s.Ready inp ∧
      commandResponse s.cfg inp i = some r ∧ Completes s t r := by
  rcases selects_or_step_refused hp with ⟨hw, i, hd⟩ | ⟨q, hq⟩
  · rw [step_of_decodeCmd hp hw hd] at h
    obtain ⟨inp, hin⟩ := ready_of_exec_next (decodeCmd_format hd) h
    obtain ⟨r, hr⟩ := exists_commandResponse (decodeCmd_format hd) s.cfg inp
    obtain ⟨t', ht', hc⟩ := exec_command_ready hin hr
    cases h.symm.trans ht'
    exact ⟨i, inp, r, hw, hd, hin, hr, hc⟩
  · cases hq.symm.trans h

/-- R181: the START of a ready command completes it. -/
theorem step_ready_completes {s : State} {i : Instr} {inp : List Byte} {r : Status × List Byte}
    (hw : s.opWritten = true) (hd : decodeCmd s.op = .ok i) (h : s.Ready inp)
    (hr : commandResponse s.cfg inp i = some r) : ∃ t, step s = .next t ∧ Completes s t r := by
  rw [step_of_decodeCmd h.idle hw hd]
  exact exec_command_ready h hr

/-! ### Steps that cannot fault (R57, R182) -/

theorem noFault_next (s : State) : NoFault (.next s) := fun _ h => by cases h

theorem noFault_refused (q : Refusal) : NoFault (.refused q) := fun _ h => by cases h

/-- A command's operand is there, or the command is refused. -/
theorem ready_or_withInput_refused (s : State) :
    (∃ inp, s.Ready inp) ∨ ∃ q, ∀ body, withInput s body = .refused q := by
  cases h : readInput s with
  | error q => exact .inr ⟨q, fun body => by simp [withInput, h]⟩
  | ok inp =>
    have hin : withInput s (fun _ s => .next s) = .next (begin s) := by simp [withInput, h]
    exact .inl ((withInput_next hin).imp fun _ h => h.1)

theorem exec_command_noFault {i : Instr} (hi : i.format = .cmd) (s : State) : NoFault (exec i s) := by
  rcases ready_or_withInput_refused s with ⟨inp, hin⟩ | ⟨q, hq⟩
  · obtain ⟨r, hr⟩ := exists_commandResponse hi s.cfg inp
    obtain ⟨t, ht, -⟩ := exec_command_ready hin hr
    rw [ht]; exact noFault_next t
  · obtain ⟨body, hb⟩ := exec_command_eq_withInput hi s
    rw [hb, hq]; exact noFault_refused q

/-- With no operation in progress no step faults, in any state. -/
theorem step_idle_noFault {s : State} (hp : s.phase = .idle) : NoFault (step s) := by
  rcases selects_or_step_refused hp with ⟨hw, i, hd⟩ | ⟨q, hq⟩
  · rw [step_of_decodeCmd hp hw hd]; exact exec_command_noFault (decodeCmd_format hd) s
  · rw [hq]; exact noFault_refused q

theorem step_noFault {s : State} (hs : s.Inv) : NoFault (step s) := by
  cases hp : s.phase with
  | idle => exact step_idle_noFault hp
  | scan =>
    obtain ⟨t, ht, -⟩ := ((phaseInv_scan_iff hp).1 hs.phase).step_inv hs hp
    rw [ht]; exact noFault_next t
  | respond c => rw [step_respond hp]; exact noFault_next _

/-! ### The output length (R58, R143) -/

/-- A result with output that is about to be delivered has its exact length. -/
theorem State.Inv.wr_eq_need {s : State} {c : BitVec 2} (hs : s.Inv) (hp : s.phase = .respond c)
    (ho : (Status.ofCode c).hasOutput = true) : s.wr = s.need :=
  (((phaseInv_respond_iff hp).1 hs.phase).2 ho).2.2

theorem ScanInv.wr_le_need {s : State} (h : ScanInv s) : s.wr ≤ s.need := by
  obtain ⟨bs, out, -, -, hneed⟩ := h.pending
  omega

/-- The end of a scan holds a result: the scan is over. -/
theorem endScan_phase {s t : State} (h : endScan s = .next t) : ∃ c, t.phase = .respond c := by
  unfold endScan at h
  split at h
  · cases h; exact ⟨_, rfl⟩
  · unfold interpretFrame at h
    dsimp only at h
    split at h
    · obtain ⟨u, -, hu⟩ := andThen_eq_next h
      cases hu; exact ⟨_, rfl⟩
    · cases h; exact ⟨_, rfl⟩

/-- A move of a scan that leaves it in progress writes one byte below `need`, which it keeps. -/
theorem step_scan_stays {s t : State} (hs : s.Inv) (hp : s.phase = .scan) (h : step s = .next t)
    (ht : t.phase = .scan) : s.wr < s.need ∧ t.need = s.need ∧ t.wr = s.wr + 1 := by
  rcases ((phaseInv_scan_iff hp).1 hs.phase).step_eq hs hp with ⟨b, n, hstep, hscan⟩ | ⟨-, -, hstep⟩
  · cases hstep.symm.trans h
    exact ⟨by simpa using hscan.wr_le_need, by simp, by simp⟩
  · obtain ⟨c, hc⟩ := endScan_phase (hstep.symm.trans h)
    rw [hc] at ht; cases ht

/-- R183, R184: a result with output is delivered at its exact length. -/
theorem step_respond_olen {s t : State} {c : BitVec 2} (hs : s.Inv) (hp : s.phase = .respond c)
    (ho : (Status.ofCode c).hasOutput = true) (h : step s = .next t) : t.olen = s.need := by
  cases (step_respond hp).symm.trans h
  simpa [ho] using hs.wr_eq_need hp ho

/-! ### Host reads (R59) -/

theorem eq_draws_of_read {s t : State} (h : t = s ∨ t = drawn s) : t = { s with draws := t.draws } := by
  rcases h with rfl | rfl <;> rfl

/-- R25, R223: a byte of the response held is read from OBUF, and the read draws no free value. -/
theorem readObuf_of_delivers {t : State} {st : Status} {out : List Byte} (h : t.Delivers st out)
    (hf : fits t.cfg out.length = true) {i : Nat} (hi : i < out.length) : readObuf i t = .byte out[i] t := by
  have hread : t.obuf.read i = some out[i] := by
    rw [h.obuf]; simpa [hi] using Memory.read_ofBytes 0 i out
  have hbyte : obufByte i t = (out[i], t) := by simp [obufByte, h.done, h.olen, hi, hread]
  have hexists : indexExists t.cfg i = true := fits_mono hi hf
  simp [readObuf, h.idle, hexists, hbyte]

/-! ### Several instances (R67, R196) -/

theorem andThen_assoc (r : Result) (f g : State → Result) :
    andThen (andThen r f) g = andThen r fun s => andThen (f s) g := by
  cases r <;> rfl

theorem andThen_runScript_nil (r : Result) : andThen r (runScript []) = r := by
  cases r <;> rfl

/-- A script after its first move, from whatever the block has come to. -/
theorem andThen_runScript_cons (r : Result) (m : HostMove) (ms : List HostMove) :
    andThen r (runScript (m :: ms)) = andThen (andThen r (hostMove m)) (runScript ms) :=
  (andThen_assoc r (hostMove m) (runScript ms)).symm

theorem movesOf_cons_same (k : Nat) (m : HostMove) (moves : List (Nat × HostMove)) :
    movesOf k ((k, m) :: moves) = m :: movesOf k moves := by
  simp [movesOf]

theorem movesOf_cons_other {j k : Nat} (h : j ≠ k) (m : HostMove) (moves : List (Nat × HostMove)) :
    movesOf k ((j, m) :: moves) = movesOf k moves := by
  simp [movesOf, h]

theorem System.length_run (moves : List (Nat × HostMove)) (sys : System) :
    (System.run moves sys).length = sys.length := by
  induction moves generalizing sys with
  | nil => rfl
  | cons a moves ih => rw [System.run, ih, System.move, List.length_modify]

theorem System.move_getElem?_same (k : Nat) (m : HostMove) (sys : System) :
    (System.move k m sys)[k]? = (sys[k]?).map fun r => andThen r (hostMove m) := by
  simp [System.move]

theorem System.move_getElem?_other {j k : Nat} (h : j ≠ k) (m : HostMove) (sys : System) :
    (System.move j m sys)[k]? = sys[k]? := by
  simp [System.move, h]

/-- R67: what each block of a system comes to is a matter of its own moves. -/
theorem System.run_getElem? (moves : List (Nat × HostMove)) (sys : System) (k : Nat) :
    (System.run moves sys)[k]? = (sys[k]?).map fun r => andThen r (runScript (movesOf k moves)) := by
  induction moves generalizing sys with
  | nil => simp [System.run, movesOf, andThen_runScript_nil]
  | cons a moves ih =>
    obtain ⟨j, m⟩ := a
    rw [System.run, ih]
    by_cases h : j = k
    · subst h
      simp only [System.move_getElem?_same, movesOf_cons_same, andThen_runScript_cons, Option.map_map,
        Function.comp_def]
    · rw [System.move_getElem?_other h, movesOf_cons_other h]

end Sys2Proof.Machine

/-! ## The obligations of the block's memory, settled -/

namespace Sys2Proof.Proofs

open Sys2Proof.Machine

/-- Settles O46: a completed command leaves its registers as they were and no operation in progress, so it stands ready
on the same input, and its response is a function of the capacity and that input. -/
theorem repeatedCommandRepeatsResponse : Obligations.RepeatedCommandRepeatsResponse := by
  intro s t hp h
  obtain ⟨i, inp, r, hw, hd, hin, hr, hc⟩ := step_idle_completes hp h
  have hready : t.Ready inp := Ready_of_sameCommand hin hc.same hc.delivers.idle
  obtain ⟨u, hu, hcu⟩ := step_ready_completes (hc.same.opWritten.trans hw) (by rw [hc.same.op]; exact hd) hready
    (by rw [hc.same.cfg]; exact hr)
  exact ⟨u, r, hu, hc.response, hcu.response⟩

/-- Settles O52, phase by phase: a command is refused or completes, a scan has room for its next byte, and a delivery
writes none. -/
theorem stepNeverFaults : Obligations.StepNeverFaults := fun _ => step_noFault

/-- Settles O53: the state after a move meets the invariant, which counts what is written and what is still to come. -/
theorem outputStaysBelowNeed : Obligations.OutputStaysBelowNeed := by
  intro s t hs h
  have hinv : t.Inv := step_keeps_inv hs h
  refine ⟨fun hp => step_scan_stays hs hp h, fun _ ht => ?_, fun hp => ?_⟩
  · rcases ht with ht | ht
    · exact hinv.wr_eq_need ht rfl
    · exact hinv.wr_eq_need ht rfl
  · rcases hp with hp | hp
    · exact step_respond_olen hs hp rfl h
    · exact step_respond_olen hs hp rfl h

/-- Settles O58: DONE is 1, so no read answers a free value below OLEN. -/
theorem hostReadsTheResponse : Obligations.HostReadsTheResponse := by
  intro t st out h hf
  refine ⟨?_, ?_, ?_, fun i hi => readObuf_of_delivers h hf hi⟩
  · simp [readDone, h.done]
  · simp [readStatus, h.done, h.status]
  · simp [readOlen, h.done, h.olen]

/-- Settles O60, by induction on the moves: a move of another block changes nothing here, and one of this block is the
next of its script. -/
theorem instancesAreIndependent : Obligations.InstancesAreIndependent := fun moves sys =>
  ⟨System.length_run moves sys, System.run_getElem? moves sys⟩

/-- Settles O15, bit by bit. -/
theorem checksumBytesAssemble : Obligations.ChecksumBytesAssemble := word16_low_high

/-- Settles O42: a symbol is a byte write guarded by the scan phase, and a result code is guarded by its own phase. -/
theorem symbolsAndResultsOutsideAnOperationStop : Obligations.SymbolsAndResultsOutsideAnOperationStop := by
  intro s
  refine ⟨fun i hi hp => exec_wire_of_not_scan hi hp, fun i hi hp hop hw => ?_, fun i hi hp hop hw => ?_,
    fun c hp => ?_⟩
  · have hk : sinkOf s = .obuf := if_neg hop
    rw [exec_wire_outside hi hp hw, hk, Sink.space]
  · have hk : sinkOf s = .ubuf := if_pos hop
    rw [exec_wire_outside hi hp hw, hk, Sink.space]
  · rw [exec_decodeRsp, whenResponding, Status.code_ofCode, if_neg hp]

/-- Settles O59, read by read: each answers the state it found, or that state with one free value drawn. -/
theorem hostReadsChangeNothing : Obligations.HostReadsChangeNothing := by
  rintro s t m (rfl | rfl | rfl | rfl | ⟨i, rfl⟩) h
  · rw [hostMove_readOp_next h]; exact eq_draws_of_read (readOp_state s)
  · cases h; rfl
  · cases h; exact eq_draws_of_read (readStatus_state s)
  · cases h; exact eq_draws_of_read (readOlen_state s)
  · rw [hostMove_readObuf_next h]; exact eq_draws_of_read (obufByte_state i s)

end Sys2Proof.Proofs

/-! ## The encoding and the presented command

The decoder reads back what the encoder writes and nothing else (`decode_eq_ok_iff`), and a wire stream parses by
decoding at its head again and again (`parseWire_cons`). The host's byte writes put an input into IBUF
(`writeInput_idle`). -/

namespace Sys2Proof.Machine

/-! ### The wire symbol at the cursor (R89, R91, R142) -/

@[simp] theorem decodeWire_boundary (rest : List Byte) : decodeWire (BOUNDARY :: rest) = .ok (.boundary, rest) := rfl

@[simp] theorem decodeWire_truncated : decodeWire [ESC] = .error .truncatedEscape := rfl

@[simp] theorem decodeWire_pair (v : Byte) (rest : List Byte) :
    decodeWire (ESC :: v :: rest) = .ok (.escpair v, rest) := rfl

theorem decodeWire_data {b : Byte} (hB : b ≠ BOUNDARY) (hE : b ≠ ESC) (rest : List Byte) :
    decodeWire (b :: rest) = .ok (.data b, rest) := by
  simp [decodeWire, hB, hE]

/-! ### Decoding what the encoder writes -/

theorem wellFormed_data_iff (d : Byte) : (Instr.data d).wellFormed = true ↔ d ≠ BOUNDARY ∧ d ≠ ESC := by
  simp [Instr.wellFormed]

/-- R81, R85, R91: the decoder reads an encoded row back and leaves the bytes after it. -/
theorem decode_encode {i : Instr} (h : i.wellFormed = true) (rest : List Byte) :
    decode i.format (encode i ++ rest) = .ok (i, rest) := by
  cases i
  case encode | decode | escape | unescape | checksum => rfl
  case ok | checksumMismatch | malformedFrame | allocationFailure => rfl
  case boundary => exact decodeWire_boundary rest
  case escpair v => exact decodeWire_pair v rest
  case data d =>
    obtain ⟨hB, hE⟩ := (wellFormed_data_iff d).1 h
    exact decodeWire_data hB hE rest

/-! ### Encoding what the decoder reads -/

theorem wellFormed_of_format {i : Instr} (h : i.format ≠ .wire) : i.wellFormed = true := by
  cases i
  case boundary | escpair | data => exact absurd rfl h
  all_goals rfl

theorem setWidth_setWidth_of_toNat_lt {b : Byte} {n : Nat} (h : b.toNat < 2 ^ n) :
    (b.setWidth n).setWidth 8 = b := by
  apply BitVec.eq_of_toNat_eq
  rw [BitVec.toNat_setWidth, BitVec.toNat_setWidth, Nat.mod_eq_of_lt h, Nat.mod_eq_of_lt b.isLt]

theorem encode_of_decodeCmd {op : BitVec 3} {i : Instr} (h : decodeCmd op = .ok i) : encode i = [op.setWidth 8] := by
  unfold decodeCmd at h
  split_ifs at h <;> cases h <;> subst op <;> rfl

theorem encode_decodeRsp (c : BitVec 2) : encode (decodeRsp c) = [c.setWidth 8] := by
  revert c; decide

theorem decodeRsp_format (c : BitVec 2) : (decodeRsp c).format = .rsp := by
  revert c; decide

theorem encoded_of_decode_cmd {bs rest : List Byte} {i : Instr} (h : decode .cmd bs = .ok (i, rest)) :
    i.format = .cmd ∧ i.wellFormed = true ∧ bs = encode i ++ rest := by
  cases bs with
  | nil => cases h
  | cons b tail =>
    rw [decode] at h
    split at h
    · next hb =>
      cases hd : decodeCmd (b.setWidth 3) with
      | error e => rw [hd] at h; cases h
      | ok j =>
        rw [hd] at h
        cases h
        have hf := decodeCmd_format hd
        refine ⟨hf, wellFormed_of_format (by simp [hf]), ?_⟩
        rw [encode_of_decodeCmd hd, setWidth_setWidth_of_toNat_lt hb]
        rfl
    · cases h

theorem encoded_of_decode_rsp {bs rest : List Byte} {i : Instr} (h : decode .rsp bs = .ok (i, rest)) :
    i.format = .rsp ∧ i.wellFormed = true ∧ bs = encode i ++ rest := by
  cases bs with
  | nil => cases h
  | cons b tail =>
    rw [decode] at h
    split at h
    · next hb =>
      cases h
      have hf := decodeRsp_format (b.setWidth 2)
      refine ⟨hf, wellFormed_of_format (by simp [hf]), ?_⟩
      rw [encode_decodeRsp, setWidth_setWidth_of_toNat_lt hb]
      rfl
    · cases h

theorem encoded_of_decodeWire {bs rest : List Byte} {i : Instr} (h : decodeWire bs = .ok (i, rest)) :
    i.format = .wire ∧ i.wellFormed = true ∧ bs = encode i ++ rest := by
  cases bs with
  | nil => cases h
  | cons b tail =>
    by_cases hB : b = BOUNDARY
    · subst hB; cases h; exact ⟨rfl, rfl, rfl⟩
    · by_cases hE : b = ESC
      · subst hE
        cases tail with
        | nil => cases h
        | cons v tail => cases h; exact ⟨rfl, rfl, rfl⟩
      · rw [decodeWire_data hB hE] at h
        cases h
        exact ⟨rfl, (wellFormed_data_iff b).2 ⟨hB, hE⟩, rfl⟩

/-- R94: format by format in one direction, row by row in the other. -/
theorem decode_eq_ok_iff {f : Format} {bs rest : List Byte} {i : Instr} :
    decode f bs = .ok (i, rest) ↔ i.format = f ∧ i.wellFormed = true ∧ bs = encode i ++ rest := by
  constructor
  · cases f with
    | cmd => exact encoded_of_decode_cmd
    | rsp => exact encoded_of_decode_rsp
    | wire => exact encoded_of_decodeWire
  · rintro ⟨rfl, hw, rfl⟩
    exact decode_encode hw rest

/-! ### The wire stream (R91) -/

/-- A parse decodes the symbol at the head of the stream and parses what the decoder leaves. -/
theorem parseWire_cons (b : Byte) (bs : List Byte) :
    parseWire (b :: bs) = (decodeWire (b :: bs)).bind fun p => (parseWire p.2).map (p.1 :: ·) := by
  rw [parseWire.eq_def]
  by_cases hE : b = ESC
  · subst hE
    cases bs with
    | nil => rfl
    | cons v rest => rfl
  · by_cases hB : b = BOUNDARY
    · subst hB; rfl
    · rw [decodeWire_data hB hE]
      simp [hE, hB, Except.bind]

theorem except_map_eq_ok_iff {ε α β : Type} {f : α → β} {x : Except ε α} {y : β} :
    x.map f = .ok y ↔ ∃ a, x = .ok a ∧ f a = y := by
  cases x <;> simp [Except.map]

theorem parseWire_eq_ok_nil_iff {bs : List Byte} : parseWire bs = .ok [] ↔ bs = [] := by
  cases bs with
  | nil => simp [parseWire]
  | cons b bs =>
    rw [parseWire_cons]
    cases decodeWire (b :: bs) <;> simp [Except.bind, except_map_eq_ok_iff]

theorem parseWire_eq_ok_cons_iff {bs : List Byte} {i : Instr} {syms : List Instr} :
    parseWire bs = .ok (i :: syms) ↔ ∃ rest, decodeWire bs = .ok (i, rest) ∧ parseWire rest = .ok syms := by
  cases bs with
  | nil => simp [parseWire, decodeWire]
  | cons b bs =>
    rw [parseWire_cons]
    cases decodeWire (b :: bs) with
    | error e => simp [Except.bind]
    | ok p =>
      obtain ⟨j, rest⟩ := p
      simp [Except.bind, except_map_eq_ok_iff, and_assoc, and_comm]

/-! ### A reserved operation code (R84) -/

theorem decodeCmd_reserved {op : BitVec 3} (h : 5 ≤ op.toNat) : decodeCmd op = .error (.reservedOpcode op) := by
  revert op; decide

theorem step_reserved {s : State} (hp : s.phase = .idle) (hw : s.opWritten = true) (h : 5 ≤ s.op.toNat) :
    step s = .refused (.reservedOpcode s.op) := by
  simp [step, fetch, hp, fetchCommand, hw, decode_cmd_register, decodeCmd_reserved h, Except.map]

/-! ### Writing a command (R24, R27, R28, R93) -/

theorem whenIdle_of_idle {s : State} (hp : s.phase = .idle) (body : State → Result) : whenIdle s body = body s :=
  if_pos hp

theorem writeOp_idle {s : State} (hp : s.phase = .idle) (v : BitVec 3) : writeOp v s = .next (putOp v s) :=
  whenIdle_of_idle hp _

theorem writeIlen_idle {s : State} {n : Nat} (hp : s.phase = .idle) (hn : fits s.cfg n = true) :
    writeIlen n s = .next (putIlen n s) := by
  rw [writeIlen, whenIdle_of_idle hp, if_pos hn]

theorem writeIbuf_idle {s : State} {i : Nat} (hp : s.phase = .idle) (hi : indexExists s.cfg i = true) (b : Byte) :
    writeIbuf i b s = .next (putIbuf i b s) := by
  rw [writeIbuf, whenIdle_of_idle hp, if_pos hi]

/-- R24: writing an input that has room from index `i` up changes IBUF alone: the input stands there, and every byte
below `i` is as it was. -/
theorem writeInput_idle (i : Nat) (inp : List Byte) {s : State} (hp : s.phase = .idle)
    (hf : fits s.cfg (i + inp.length) = true) :
    ∃ m : Memory, writeInput i inp s = .next { s with ibuf := m } ∧ m.bytes i inp.length = some inp ∧
      ∀ a < i, m.read a = s.ibuf.read a := by
  induction inp generalizing i s with
  | nil => exact ⟨s.ibuf, rfl, rfl, fun _ _ => rfl⟩
  | cons b inp ih =>
    rw [List.length_cons] at hf
    obtain ⟨m, hm, hbytes, hbelow⟩ := ih (i + 1) (s := putIbuf i b s) hp (fits_mono (by omega) hf)
    have hread : m.read i = some b := by
      rw [hbelow i (Nat.lt_succ_self i), putIbuf_ibuf, Memory.read_write_same]
    refine ⟨m, ?_, ?_, fun a ha => ?_⟩
    · rw [writeInput, writeIbuf_idle hp (fits_mono (by omega) hf), andThen_next, hm]
      rfl
    · rw [List.length_cons, Memory.bytes, hread, hbytes]
      rfl
    · rw [hbelow a (by omega), putIbuf_ibuf, Memory.read_write_other _ _ _ _ (Nat.ne_of_lt ha)]

/-- R93: what the three writes of a command leave. -/
theorem presentCommand_idle {s : State} (op : BitVec 3) {inp : List Byte} (hp : s.phase = .idle)
    (hf : fits s.cfg inp.length = true) :
    ∃ m : Memory, presentCommand op inp s = .next { putIlen inp.length (putOp op s) with ibuf := m } ∧
      m.bytes 0 inp.length = some inp := by
  obtain ⟨m, hm, hbytes, -⟩ := writeInput_idle 0 inp (s := putIlen inp.length (putOp op s)) hp (by simpa using hf)
  refine ⟨m, ?_, hbytes⟩
  rw [presentCommand, writeOp_idle hp, andThen_next, writeIlen_idle (s := putOp op s) hp hf, andThen_next, hm]

end Sys2Proof.Machine

/-! ## The obligations of the encoding, settled -/

namespace Sys2Proof.Proofs

open Sys2Proof.Machine

/-- Settles O2: what a decoder reads it reads from the row's encoding, and it reads every encoded row back. -/
theorem decodeEncodeAgree : Obligations.DecodeEncodeAgree := fun _ _ _ _ => decode_eq_ok_iff

/-- Settles O3, by induction on the symbols: the first is what the decoder reads at the head of the stream, and the
others are the parse of what it leaves. -/
theorem wireStreamParsesUniquely : Obligations.WireStreamParsesUniquely := by
  intro bs syms
  induction syms generalizing bs with
  | nil => simp [parseWire_eq_ok_nil_iff]
  | cons i syms ih =>
    rw [parseWire_eq_ok_cons_iff, List.forall_mem_cons, List.flatMap_cons]
    constructor
    · rintro ⟨rest, hd, hparse⟩
      obtain ⟨hf, hw, rfl⟩ := encoded_of_decodeWire hd
      obtain ⟨hsyms, rfl⟩ := (ih rest).1 hparse
      exact ⟨⟨⟨hf, hw⟩, hsyms⟩, rfl⟩
    · rintro ⟨⟨⟨hf, hw⟩, hsyms⟩, rfl⟩
      exact ⟨_, (decode_eq_ok_iff (f := .wire)).2 ⟨hf, hw, rfl⟩, (ih _).2 ⟨hsyms, rfl⟩⟩

/-- Settles O55, from the state that the three writes leave. -/
theorem presentedCommandIsReady : Obligations.PresentedCommandIsReady := by
  intro s op inp hp hf
  obtain ⟨m, hm, hbytes⟩ := presentCommand_idle op hp hf
  have hready : State.Ready { putIlen inp.length (putOp op s) with ibuf := m } inp := ⟨hp, rfl, hf, hbytes⟩
  exact ⟨_, hm, hready, rfl, rfl, rfl, rfl, rfl, rfl, rfl⟩

/-- Settles O1: each word is the encoding of its row. -/
theorem opcodeTableWordsDecode : Obligations.OpcodeTableWordsDecode :=
  ⟨decode_encode (i := .encode) rfl [], decode_encode (i := .decode) rfl [], decode_encode (i := .checksum) rfl [],
    decode_encode (i := .checksumMismatch) rfl [], decode_encode (i := .allocationFailure) rfl [],
    decode_encode (i := .boundary) rfl [], decode_encode (i := .escpair 0b01011110) rfl [],
    decode_encode (i := .data 0b01000001) rfl []⟩

/-- Settles O4: one equation of the decoder for each first byte. -/
theorem symbolAtCursorByFirstByte : Obligations.SymbolAtCursorByFirstByte := by
  intro b rest
  refine ⟨?_, ?_, ?_, fun hB hE => decodeWire_data hB hE rest⟩
  · rintro rfl; exact decodeWire_boundary rest
  · rintro rfl rfl; exact decodeWire_truncated
  · rintro v rest' rfl rfl; exact decodeWire_pair v rest'

/-- Settles O7: the code selects no row, and START is the step of an idle block. -/
theorem reservedOpcodeRefused : Obligations.ReservedOpcodeRefused := fun _ hp hw h =>
  ⟨step_reserved hp hw h, (whenIdle_of_idle hp step).trans (step_reserved hp hw h)⟩

end Sys2Proof.Proofs

/-! ## The Checksum Engine

A round of the generating loop is linear over XOR (`reflectedShift_xor`) and only shifts a word whose bit 0 is clear
(`reflectedShift_of_even`). So eight rounds of a word are the table entry of its low byte, XORed with its high byte
moved down (`eightShifts_eq_read`), which is the table form of one step. -/

namespace Sys2Proof.Machine

/-! ### The rounds of the generating loop (R111) -/

/-- A round as one XOR: the polynomial enters where bit 0 is set. -/
theorem reflectedShift_eq (c : Word16) : reflectedShift c = c >>> 1 ^^^ if c.getLsbD 0 then POLY else 0 := by
  unfold reflectedShift
  split
  · rfl
  · exact BitVec.xor_zero.symm

theorem reflectedShift_of_even {c : Word16} (h : c.getLsbD 0 = false) : reflectedShift c = c >>> 1 :=
  if_neg (ne_true_of_eq_false h)

/-- The shift is linear, and so is the polynomial's part in bit 0: where both bits are set it cancels. -/
theorem reflectedShift_xor (a b : Word16) : reflectedShift (a ^^^ b) = reflectedShift a ^^^ reflectedShift b := by
  have hpoly : ∀ x y : Bool, (if x ^^ y then POLY else 0) = (if x then POLY else 0) ^^^ if y then POLY else 0 := by
    decide
  rw [reflectedShift_eq, reflectedShift_eq, reflectedShift_eq, BitVec.getLsbD_xor, hpoly,
    BitVec.ushiftRight_xor_distrib]
  ac_rfl

theorem eightShifts_eq_iterate (c : Word16) : eightShifts c = reflectedShift^[8] c := rfl

theorem eightShifts_xor (a b : Word16) : eightShifts (a ^^^ b) = eightShifts a ^^^ eightShifts b := by
  simp only [eightShifts, reflectedShift_xor]

/-- Rounds on a word with as many clear low bits only shift it. -/
theorem iterate_reflectedShift_of_low_clear (n : Nat) {c : Word16} (h : ∀ i < n, c.getLsbD i = false) :
    reflectedShift^[n] c = c >>> n := by
  induction n generalizing c with
  | zero => simp
  | succ n ih =>
    have hrest : ∀ i < n, (c >>> 1).getLsbD i = false := fun i hi => by
      rw [BitVec.getLsbD_ushiftRight]; exact h (1 + i) (by omega)
    rw [Function.iterate_succ_apply, reflectedShift_of_even (h 0 (Nat.succ_pos n)), ih hrest,
      ← BitVec.shiftRight_add, Nat.add_comm]

/-! ### The table (R112) -/

/-- R111, R112: the 256 literal entries, each against the loop. -/
theorem read_eq_generatedEntry : ∀ i : Byte, TableRom.rom.read i = generatedEntry i := by
  decide +kernel

theorem generatedEntry_xor (a b : Byte) : generatedEntry (a ^^^ b) = generatedEntry a ^^^ generatedEntry b := by
  rw [generatedEntry, BitVec.setWidth_xor, eightShifts_xor]; rfl

/-! ### One step of the checksum (R110, R115) -/

/-- A word is its low byte, XORed with its high byte in place. -/
theorem low_xor_high_eq (c : Word16) : (low c).setWidth 16 ^^^ (c >>> 8) <<< 8 = c := by
  ext i hi
  rw [← BitVec.getLsbD_eq_getElem, ← BitVec.getLsbD_eq_getElem]
  by_cases h : i < 8
  · simp [low, h, hi]
  · simp [low, h, hi, show 8 + (i - 8) = i by omega]

/-- Eight rounds drive out the low byte, which leaves its table entry, and only shift the high byte. -/
theorem eightShifts_eq_read (c : Word16) : eightShifts c = TableRom.rom.read (low c) ^^^ c >>> 8 := by
  have hhigh : eightShifts ((c >>> 8) <<< 8) = c >>> 8 := by
    rw [eightShifts_eq_iterate, iterate_reflectedShift_of_low_clear 8 (fun i hi => by simp [hi])]
    ext i hi
    simpa using BitVec.lt_of_getLsbD
  calc eightShifts c
      = eightShifts ((low c).setWidth 16 ^^^ (c >>> 8) <<< 8) := by rw [low_xor_high_eq]
    _ = eightShifts ((low c).setWidth 16) ^^^ c >>> 8 := by rw [eightShifts_xor, hhigh]
    _ = TableRom.rom.read (low c) ^^^ c >>> 8 := by rw [read_eq_generatedEntry, generatedEntry]

theorem crcStep_eq_crcStepSerial (crc : Word16) (b : Byte) : crcStep .rom crc b = crcStepSerial crc b := by
  have hindex : ((crc ^^^ b.setWidth 16) &&& 0x00FF).setWidth 8 = low (crc ^^^ b.setWidth 16) := by
    rw [low, BitVec.setWidth_and]
    exact BitVec.and_allOnes
  have hshift : (crc ^^^ b.setWidth 16) >>> 8 = crc >>> 8 := by
    ext i hi
    simp
  rw [crcStep, crcStepSerial, eightShifts_eq_read, hindex, hshift]

/-! ### CHECKSUM completes (R117) -/

/-- R117: the response by the capacity for the two checksum bytes. -/
theorem checksumResponse_of_fits {c : Config} (h : fits c 2 = true) (inp : List Byte) :
    checksumResponse c inp = (.ok, [low (crc16 inp), high (crc16 inp)]) := by
  simp [checksumResponse, cappedResponse, checksumBytes, h]

theorem checksumResponse_of_not_fits {c : Config} (h : fits c 2 = false) (inp : List Byte) :
    checksumResponse c inp = (.allocationFailure, []) := by
  simp [checksumResponse, cappedResponse, checksumBytes, h]

end Sys2Proof.Machine

/-! ## The obligations of the Checksum Engine, settled -/

namespace Sys2Proof.Proofs

open Sys2Proof.Machine

/-- Settles O13: the two forms make the same step on every accumulator and byte, so they agree along the input. -/
theorem checksumEqualsBitSerial : Obligations.ChecksumEqualsBitSerial := by
  intro bs
  have hstep : crcStep .rom = crcStepSerial := funext₂ crcStep_eq_crcStepSerial
  rw [crc16, crc16Serial, hstep]

/-- Settles O14: the loop body never runs, and the seed is all ones. -/
theorem checksumOfEmptyIsZero : Obligations.ChecksumOfEmptyIsZero :=
  calc crc16 [] = ~~~SEED := rfl
    _ = 0x0000 := by decide

/-- Settles O16: a ready CHECKSUM completes with its response, which the capacity for two bytes decides. -/
theorem checksumCompletes : Obligations.ChecksumCompletes := by
  refine ⟨fun s inp h => ⟨fun hw hop => ?_, ?_⟩, fun inp => word16_low_high _, checksumOfEmptyIsZero,
    by decide, by decide⟩
  · exact step_of_decodeCmd h.idle hw (by rw [hop]; rfl)
  · obtain ⟨t, ht, hc⟩ := execChecksum_ready h
    refine ⟨t, ht, hc.same, fun hf => ?_, fun hf => ?_⟩
    · simpa [checksumResponse_of_fits hf] using hc.delivers
    · simpa [checksumResponse_of_not_fits hf] using hc.delivers

/-- Settles O11, entry by entry. -/
theorem tableIsGenerated : Obligations.TableIsGenerated := read_eq_generatedEntry

/-- Settles O12: the entries are eight rounds of a linear loop. -/
theorem tableXorLinear : Obligations.TableXorLinear := by
  intro a b
  rw [read_eq_generatedEntry, read_eq_generatedEntry, read_eq_generatedEntry, generatedEntry_xor]

end Sys2Proof.Proofs

/-! ## The Escaper

One input byte at a time: a reserved byte becomes a marker and a masked byte (`escape_cons_reserved`), any other byte
stands for itself (`escape_cons_plain`). That the masked byte is 0x5E or 0x5D (`masked_of_reserved`) makes the output
well formed, and that the scan undoes each step (`unescape_escape`) makes `escape` injective. -/

namespace Sys2Proof.Machine

/-! ### One byte (R14, R130) -/

theorem isReserved_iff {b : Byte} : isReserved b = true ↔ b = BOUNDARY ∨ b = ESC := by
  simp [isReserved]

theorem isReserved_eq_false_iff {b : Byte} : isReserved b = false ↔ b ≠ BOUNDARY ∧ b ≠ ESC := by
  simp [isReserved]

theorem escape_cons_reserved {b : Byte} (h : isReserved b = true) (bs : List Byte) :
    escape (b :: bs) = ESC :: (b ^^^ MASK) :: escape bs := by
  simp [escape, escapeByte, h]

theorem escape_cons_plain {b : Byte} (h : isReserved b = false) (bs : List Byte) :
    escape (b :: bs) = b :: escape bs := by
  simp [escape, escapeByte, h]

/-- R133 (b): the bytes that follow a marker. -/
theorem masked_of_reserved {b : Byte} (h : isReserved b = true) : b ^^^ MASK = 0x5E ∨ b ^^^ MASK = 0x5D := by
  rcases isReserved_iff.1 h with rfl | rfl
  · exact .inl (by decide)
  · exact .inr (by decide)

/-- The mask takes a reserved byte out of the reserved ones. -/
theorem isReserved_masked {b : Byte} (h : isReserved b = true) : isReserved (b ^^^ MASK) = false := by
  rcases masked_of_reserved h with h | h <;> rw [h] <;> decide

/-! ### The whole input (R133) -/

theorem escape_append (as bs : List Byte) : escape (as ++ bs) = escape as ++ escape bs := by
  induction as with
  | nil => rfl
  | cons a as ih => rw [List.cons_append, escape, escape, ih, List.append_assoc]

theorem boundary_notMem_escape (bs : List Byte) : BOUNDARY ∉ escape bs := by
  induction bs with
  | nil => exact List.not_mem_nil
  | cons b bs ih =>
    cases hr : isReserved b with
    | true =>
      have hmasked := (isReserved_eq_false_iff.1 (isReserved_masked hr)).1
      rw [escape_cons_reserved hr, List.mem_cons, List.mem_cons]
      rintro (h | h | h)
      · exact absurd h (by decide)
      · exact hmasked h.symm
      · exact ih h
    | false =>
      rw [escape_cons_plain hr, List.mem_cons]
      rintro (h | h)
      · exact (isReserved_eq_false_iff.1 hr).1 h.symm
      · exact ih h

/-- R133 (b): the byte after a marker is there, and it is the masked form of a reserved byte. -/
theorem escape_after_marker {bs : List Byte} {k : Nat} (h : (escape bs)[k]? = some ESC) :
    (escape bs)[k + 1]? = some 0x5E ∨ (escape bs)[k + 1]? = some 0x5D := by
  induction bs generalizing k with
  | nil => cases h
  | cons b bs ih =>
    cases hr : isReserved b with
    | true =>
      rw [escape_cons_reserved hr] at h ⊢
      match k with
      | 0 => exact (masked_of_reserved hr).imp (congrArg some) (congrArg some)
      | 1 => exact absurd (Option.some.inj h) (isReserved_eq_false_iff.1 (isReserved_masked hr)).2
      | k + 2 => exact ih h
    | false =>
      rw [escape_cons_plain hr] at h ⊢
      match k with
      | 0 => exact absurd (Option.some.inj h) (isReserved_eq_false_iff.1 hr).2
      | k + 1 => exact ih h

/-- R133, R146: the scan undoes each step of the Escaper. -/
theorem unescape_escape (bs : List Byte) : unescape (escape bs) = some bs := by
  induction bs with
  | nil => rfl
  | cons b bs ih =>
    cases hr : isReserved b with
    | true =>
      rw [escape_cons_reserved hr, unescape_cons_pair, ih, BitVec.xor_assoc, BitVec.xor_self, BitVec.xor_zero]
      rfl
    | false =>
      rw [escape_cons_plain hr, unescape_cons_data (isReserved_eq_false_iff.1 hr).2, ih]
      rfl

theorem escape_injective : Function.Injective escape := fun as bs h =>
  Option.some.inj (by rw [← unescape_escape as, h, unescape_escape])

/-! ### Lengths (R131, R132) -/

theorem length_escape (bs : List Byte) : (escape bs).length = bs.length + reservedCount bs :=
  (escapeSize_eq_length bs).symm

theorem reservedCount_le_length (bs : List Byte) : reservedCount bs ≤ bs.length := List.countP_le_length

theorem reservedCount_eq_zero_iff {bs : List Byte} : reservedCount bs = 0 ↔ ∀ b ∈ bs, isReserved b = false := by
  simp [reservedCount]

theorem reservedCount_eq_length_iff {bs : List Byte} :
    reservedCount bs = bs.length ↔ ∀ b ∈ bs, isReserved b = true :=
  List.countP_eq_length

/-! ### ESCAPE completes (R134) -/

theorem cappedResponse_of_fits {c : Config} {out : List Byte} (h : fits c out.length = true) :
    cappedResponse c out = (.ok, out) :=
  if_pos h

theorem cappedResponse_of_not_fits {c : Config} {out : List Byte} (h : fits c out.length = false) :
    cappedResponse c out = (.allocationFailure, []) :=
  if_neg (ne_true_of_eq_false h)

/-- R134: an input within the capacity whose escaped form is not has a reserved byte. -/
theorem State.Ready.reservedCount_pos {s : State} {inp : List Byte} (h : s.Ready inp)
    (hf : fits s.cfg (inp.length + reservedCount inp) = false) : 0 < reservedCount inp := by
  refine Nat.pos_of_ne_zero fun hzero => ?_
  rw [hzero, Nat.add_zero, Ready_length h, h.ilenFits] at hf
  cases hf

end Sys2Proof.Machine

/-! ## The obligations of the Escaper, settled -/

namespace Sys2Proof.Proofs

open Sys2Proof.Machine

/-- Settles O17: the output has one byte more for each reserved byte, and of those there are between none and all. -/
theorem escapeLengthLaw : Obligations.EscapeLengthLaw := by
  intro bs
  have hlen := length_escape bs
  have hle := reservedCount_le_length bs
  refine ⟨hlen, escapeSize_eq_length bs, length_le_length_escape bs, by omega, fun hnone => ?_, fun hall => ?_⟩
  · rw [hlen, reservedCount_eq_zero_iff.2 hnone, Nat.add_zero]
  · rw [hlen, reservedCount_eq_length_iff.2 hall, Nat.two_mul]

/-- Settles O18: a boundary marker never stands in the output, and no escape marker stands there alone. -/
theorem escapeOutputIsWellFormed : Obligations.EscapeOutputIsWellFormed := fun bs =>
  ⟨fun _ hb => ne_of_mem_of_not_mem hb (boundary_notMem_escape bs), fun _ => escape_after_marker⟩

/-- Settles O19: `unescape` is a left inverse, and the output is that of each byte in turn. -/
theorem escapeInjectiveAndAppends : Obligations.EscapeInjectiveAndAppends :=
  ⟨fun _ _ h => escape_injective h, escape_append⟩

/-- Settles O20: a ready ESCAPE completes with its response, which the capacity for the escaped input decides. -/
theorem escapeCompletes : Obligations.EscapeCompletes := by
  refine ⟨fun s inp h => ⟨fun hw hop => ?_, ?_⟩, by decide⟩
  · exact step_of_decodeCmd h.idle hw (by rw [hop]; rfl)
  · obtain ⟨t, ht, hc⟩ := execEscape_ready h
    rw [escapeResponse] at hc
    refine ⟨t, ht, hc.same, fun hf => ?_, fun hf => ⟨?_, h.reservedCount_pos hf⟩⟩
    · rw [cappedResponse_of_fits (by rwa [length_escape])] at hc
      exact hc.delivers
    · rw [cappedResponse_of_not_fits (by rwa [length_escape])] at hc
      exact hc.delivers

end Sys2Proof.Proofs

/-! ## The Unescaper

The scan goes symbol by symbol (`unescape_cons_pair`, `unescape_cons_data`), and what holds of every input that
unescapes is shown by an induction of that shape (`unescape_induction`). An input that does not unescape is one that
does, followed by a lone marker (`unescape_eq_none_iff`). On the registers a wire symbol is one byte written to the
scan's sink (`exec_symbol_eq`), and the end of a DECODE interprets UBUF (`interpretFrame_frame`). -/

namespace Sys2Proof.Machine

/-! ### Inputs that unescape, and inputs that do not (R141, R142) -/

/-- R141: the induction along a scan that reaches the end of its input, one symbol at a time. -/
theorem unescape_induction {P : List Byte → List Byte → Prop} (nil : P [] [])
    (pair : ∀ v rest out, P rest out → P (ESC :: v :: rest) ((v ^^^ MASK) :: out))
    (data : ∀ b rest out, b ≠ ESC → P rest out → P (b :: rest) (b :: out))
    {bs out : List Byte} (h : unescape bs = some out) : P bs out := by
  induction bs using unescape.induct generalizing out with
  | case1 => cases h; exact nil
  | case2 => cases h
  | case3 v rest ih =>
    rw [unescape_cons_pair] at h
    obtain ⟨o, ho, rfl⟩ := Option.map_eq_some_iff.1 h
    exact pair v rest o (ih ho)
  | case4 b rest hb ih =>
    rw [unescape_cons_data hb] at h
    obtain ⟨o, ho, rfl⟩ := Option.map_eq_some_iff.1 h
    exact data b rest o hb (ih ho)

/-- R141: a scan that has come to the end of a first part goes on from there. -/
theorem unescape_append {as out : List Byte} (h : unescape as = some out) (bs : List Byte) :
    unescape (as ++ bs) = (unescape bs).map (out ++ ·) := by
  refine unescape_induction (P := fun as out => unescape (as ++ bs) = (unescape bs).map (out ++ ·)) ?_ ?_ ?_ h
  · simp
  · intro v rest out ih
    simp [unescape_cons_pair, ih, Function.comp_def]
  · intro b rest out hb ih
    simp [unescape_cons_data hb, ih, Function.comp_def]

/-- R142: the scan fails only by coming to a marker that is the last byte. -/
theorem lone_marker_of_unescape_none {bs : List Byte} (h : unescape bs = none) :
    ∃ as out, unescape as = some out ∧ bs = as ++ [ESC] := by
  induction bs using unescape.induct with
  | case1 => cases h
  | case2 => exact ⟨[], [], rfl, rfl⟩
  | case3 v rest ih =>
    rw [unescape_cons_pair, Option.map_eq_none_iff] at h
    obtain ⟨as, out, has, rfl⟩ := ih h
    exact ⟨ESC :: v :: as, (v ^^^ MASK) :: out, by rw [unescape_cons_pair, has]; rfl, rfl⟩
  | case4 b rest hb ih =>
    rw [unescape_cons_data hb, Option.map_eq_none_iff] at h
    obtain ⟨as, out, has, rfl⟩ := ih h
    exact ⟨b :: as, b :: out, by rw [unescape_cons_data hb, has]; rfl, rfl⟩

theorem unescape_eq_none_iff {bs : List Byte} :
    unescape bs = none ↔ ∃ as out, unescape as = some out ∧ bs = as ++ [ESC] := by
  refine ⟨lone_marker_of_unescape_none, ?_⟩
  rintro ⟨as, out, has, rfl⟩
  rw [unescape_append has, unescape_lone]
  rfl

/-! ### The wire symbols of an input (R91, R141) -/

/-- R91: the values of a stream are that of the symbol at its head and those of what the decoder leaves. -/
theorem values_parseWire_cons {b v : Byte} {bs rest : List Byte} {i : Instr}
    (hd : decodeWire (b :: bs) = .ok (i, rest)) (hv : symbolValue i = some v) :
    (parseWire (b :: bs)).toOption.map (List.filterMap symbolValue) =
      ((parseWire rest).toOption.map (List.filterMap symbolValue)).map (v :: ·) := by
  rw [parseWire_cons, hd]
  cases hp : parseWire rest with
  | error e => simp [Except.bind, Except.map, Except.toOption, hp]
  | ok syms => simp [Except.bind, Except.map, Except.toOption, hp, hv]

/-- R91, R141: the output is the values of the parsed symbols. -/
theorem unescape_eq_parseWire (bs : List Byte) :
    unescape bs = (parseWire bs).toOption.map (List.filterMap symbolValue) := by
  induction bs using unescape.induct with
  | case1 => rfl
  | case2 => rfl
  | case3 v rest ih =>
    rw [unescape_cons_pair, ih, values_parseWire_cons (decodeWire_pair v rest) rfl]
  | case4 b rest hb ih =>
    by_cases hB : b = BOUNDARY
    · subst hB
      rw [unescape_cons_data hb, ih, values_parseWire_cons (decodeWire_boundary rest) rfl]
    · rw [unescape_cons_data hb, ih, values_parseWire_cons (decodeWire_data hB hb rest) rfl]

/-! ### Active markers and lengths (R144, R145) -/

theorem activeMarkers_cons_pair (v : Byte) (rest : List Byte) :
    activeMarkers (ESC :: v :: rest) = activeMarkers rest + 1 := by
  rw [activeMarkers.eq_def]; exact if_pos rfl

theorem activeMarkers_cons_data {b : Byte} (h : b ≠ ESC) (rest : List Byte) :
    activeMarkers (b :: rest) = activeMarkers rest := by
  rw [activeMarkers.eq_def]; exact if_neg h

/-- R144: each active marker is the one byte that its symbol has more than its value. -/
theorem length_add_activeMarkers {bs out : List Byte} (h : unescape bs = some out) :
    out.length + activeMarkers bs = bs.length := by
  refine unescape_induction (P := fun bs out => out.length + activeMarkers bs = bs.length) rfl ?_ ?_ h
  · intro v rest out ih
    rw [activeMarkers_cons_pair]
    simp only [List.length_cons]; omega
  · intro b rest out hb ih
    rw [activeMarkers_cons_data hb]
    simp only [List.length_cons]; omega

/-- R145: each active marker has a value of its own in the output. -/
theorem activeMarkers_le_length {bs out : List Byte} (h : unescape bs = some out) :
    activeMarkers bs ≤ out.length := by
  refine unescape_induction (P := fun bs out => activeMarkers bs ≤ out.length) (le_refl _) ?_ ?_ h
  · intro v rest out ih
    rw [activeMarkers_cons_pair]
    exact Nat.succ_le_succ ih
  · intro b rest out hb ih
    rw [activeMarkers_cons_data hb]
    exact Nat.le_succ_of_le ih

/-- R133 (b), R144: in an escaped buffer a marker is never the second byte of a pair. -/
theorem activeMarkers_escape (bs : List Byte) : activeMarkers (escape bs) = (escape bs).count ESC := by
  induction bs with
  | nil => rfl
  | cons b bs ih =>
    cases hr : isReserved b with
    | true =>
      have hmasked := (isReserved_eq_false_iff.1 (isReserved_masked hr)).2
      rw [escape_cons_reserved hr, activeMarkers_cons_pair, ih, List.count_cons_self, List.count_cons_of_ne hmasked]
    | false =>
      have hb := (isReserved_eq_false_iff.1 hr).2
      rw [escape_cons_plain hr, activeMarkers_cons_data hb, ih, List.count_cons_of_ne hb]

/-! ### The byte-serial form (R149) -/

theorem streamStep_marker (out : List Byte) : streamStep (false, out) ESC = (true, out) := rfl

theorem streamStep_pending (out : List Byte) (v : Byte) :
    streamStep (true, out) v = (false, out ++ [v ^^^ MASK]) := rfl

theorem streamStep_data {b : Byte} (h : b ≠ ESC) (out : List Byte) :
    streamStep (false, out) b = (false, out ++ [b]) := by
  simp [streamStep, h]

/-- R149: over an input that unescapes, `pend` is clear again at the end. -/
theorem foldl_streamStep {bs out : List Byte} (h : unescape bs = some out) (acc : List Byte) :
    bs.foldl streamStep (false, acc) = (false, acc ++ out) := by
  refine unescape_induction
    (P := fun bs out => ∀ acc, bs.foldl streamStep (false, acc) = (false, acc ++ out)) ?_ ?_ ?_ h acc
  · simp
  · intro v rest out ih acc
    rw [List.foldl_cons, List.foldl_cons, streamStep_marker, streamStep_pending, ih, List.append_assoc]
    rfl
  · intro b rest out hb ih acc
    rw [List.foldl_cons, streamStep_data hb, ih, List.append_assoc]
    rfl

theorem unescapeStream_eq (bs : List Byte) : unescapeStream bs = unescape bs := by
  cases h : unescape bs with
  | some out => rw [unescapeStream, foldl_streamStep h]; rfl
  | none =>
    obtain ⟨as, out, has, rfl⟩ := unescape_eq_none_iff.1 h
    rw [unescapeStream, List.foldl_append, foldl_streamStep has]; rfl

/-! ### UNESCAPE completes (R147) -/

theorem unescapeResponse_of_some {inp out : List Byte} (h : unescape inp = some out) :
    unescapeResponse inp = (.ok, out) := by
  simp [unescapeResponse, h]

theorem unescapeResponse_of_none {inp : List Byte} (h : unescape inp = none) :
    unescapeResponse inp = (.malformedFrame, []) := by
  simp [unescapeResponse, h]

theorem unescapeResponse_code_iff (inp : List Byte) : (unescapeResponse inp).1.code = 2 ↔ unescape inp = none := by
  cases h : unescape inp with
  | some out => simp [unescapeResponse_of_some h, Status.code]
  | none => simp [unescapeResponse_of_none h, Status.code]

/-! ### A wire symbol in a scan (R89, R91, R141) -/

/-- The state after `b` has been written at the write index of the sink `k`. -/
def written (k : Sink) (b : Byte) (s : State) : State :=
  match k with
  | .obuf => { s with obuf := s.obuf.write s.wr b, wr := s.wr + 1 }
  | .ubuf => { s with ubuf := s.ubuf.write s.wr b, wr := s.wr + 1 }

theorem emit_inside {s : State} (k : Sink) (b : Byte) (h : indexExists s.cfg s.wr = true) :
    emit k b s = .next (written k b s) := by
  cases k <;> exact if_pos h

theorem emit_next {k : Sink} {b : Byte} {s t : State} (h : emit k b s = .next t) : t = written k b s := by
  cases hw : indexExists s.cfg s.wr with
  | false => rw [emit_outside k b hw] at h; cases h
  | true => rw [emit_inside k b hw] at h; cases h; rfl

theorem sinkOf_of_op_eq {s : State} (h : s.op = 1) : sinkOf s = .ubuf := if_pos h

theorem sinkOf_of_op_ne {s : State} (h : s.op ≠ 1) : sinkOf s = .obuf := if_neg h

/-- R141: a symbol writes the byte it stands for and moves the cursor by its own length. -/
theorem exec_symbol_eq {i : Instr} {b : Byte} (hb : symbolValue i = some b) (s : State) :
    exec i s = whenScanning s fun s => andThen (emit (sinkOf s) b s) fun s =>
      .next (advance (encode i).length s) := by
  cases i <;> cases hb
  case boundary | escpair | data => rfl

theorem exec_symbol_scan {i : Instr} {b : Byte} {k : Sink} {s : State} (hb : symbolValue i = some b)
    (hk : sinkOf s = k) (hp : s.phase = .scan) (hw : indexExists s.cfg s.wr = true) :
    exec i s = .next (advance (encode i).length (written k b s)) := by
  rw [exec_symbol_eq hb, whenScanning, if_pos hp, hk, emit_inside k b hw, andThen_next]

/-- A symbol that answers a next state has written one byte and moved the cursor. -/
theorem exec_wire_next {i : Instr} {s t : State} (hi : i.format = .wire) (h : exec i s = .next t) :
    ∃ b n, t = advance n (written (sinkOf s) b s) := by
  obtain ⟨b, n, he⟩ := exec_wire_eq hi s
  obtain ⟨u, hu, hut⟩ := andThen_eq_next (whenScanning_next (he.symm.trans h))
  cases emit_next hu
  cases hut
  exact ⟨b, n, rfl⟩

/-! ### The end of a scan (R142, R164, R166) -/

theorem step_scan_truncated {s : State} (hp : s.phase = .scan) (hr : remaining s = some [ESC]) :
    step s = conclude .malformedFrame s := by
  simp [step, fetch, hp, fetchSymbol, hr, decode]

theorem endScan_unescape {s : State} (h : s.op ≠ 1) : endScan s = conclude .ok s := by
  rw [endScan, sinkOf_of_op_ne h]

theorem endScan_decode {s : State} (h : s.op = 1) : endScan s = interpretFrame conclude s := by
  rw [endScan, sinkOf_of_op_eq h]

theorem exists_append_three {bs : List Byte} (h : 3 ≤ bs.length) : ∃ p x y z, bs = p ++ [x, y, z] := by
  have hlast : (bs.drop (bs.length - 3)).length = 3 := by rw [List.length_drop]; omega
  obtain ⟨x, y, z, hxyz⟩ := List.length_eq_three.1 hlast
  exact ⟨bs.take (bs.length - 3), x, y, z, by rw [← hxyz, List.take_append_drop]⟩

/-- R164, R165: the shape tests are passed by exactly the buffers boundary, payload, two checksum bytes, boundary. -/
theorem frameShaped_iff {u : List Byte} :
    frameShaped u = true ↔ ∃ p lo hi, u = [BOUNDARY] ++ p ++ [lo, hi] ++ [BOUNDARY] := by
  constructor
  · intro h
    simp only [frameShaped, Bool.and_eq_true, decide_eq_true_eq, beq_iff_eq] at h
    obtain ⟨hlen, hfirst, hlast⟩ := h
    cases u with
    | nil => cases hlen
    | cons b rest =>
      obtain ⟨p, lo, hi, z, rfl⟩ := exists_append_three (Nat.le_of_succ_le_succ hlen)
      have hb : b = BOUNDARY := by simpa using hfirst
      have hz : z = BOUNDARY := by simpa using hlast
      exact ⟨p, lo, hi, by simp [hb, hz]⟩
  · rintro ⟨p, lo, hi, rfl⟩
    simp [frameShaped, MIN_FRAME]

theorem framePayload_frame (p : List Byte) (lo hi : Byte) :
    framePayload ([BOUNDARY] ++ p ++ [lo, hi] ++ [BOUNDARY]) = p := by
  simp [framePayload]

theorem frameChecksum_frame (p : List Byte) (lo hi : Byte) :
    frameChecksum ([BOUNDARY] ++ p ++ [lo, hi] ++ [BOUNDARY]) = word16 lo hi := by
  simp [frameChecksum]

theorem code_statusOfVerified (c d : Word16) : (statusOfVerified (c == d)).code = if c = d then 0 else 1 := by
  by_cases h : c = d
  · simp [h, statusOfVerified, Status.code]
  · simp [h, statusOfVerified, Status.code]

/-- R164, R166: a frame in UBUF whose payload fits, whatever OBUF holds: the payload stands in OBUF from index 0 up, and
every other byte of it is as it was. -/
theorem interpretFrame_frame {last : Status → State → Result} {s : State} {p : List Byte} {lo hi : Byte}
    (hu : s.ubuf.values = [BOUNDARY] ++ p ++ [lo, hi] ++ [BOUNDARY]) (hf : fits s.cfg p.length = true) :
    ∃ m : Memory, interpretFrame last s =
        last (statusOfVerified (crc16 p == word16 lo hi))
          { withNeed p.length (runChecksum p s) with obuf := m, wr := p.length } ∧
      ∀ a, m.read a = (p[a]?).or (s.obuf.read a) := by
  obtain ⟨m, hm, hread⟩ := emitAll_obuf p (s := startOutput (withNeed p.length (runChecksum p s)))
    (by simpa using hf)
  refine ⟨m, ?_, by simpa using hread⟩
  have hshape : frameShaped s.ubuf.values = true := frameShaped_iff.2 ⟨p, lo, hi, hu⟩
  simp only [interpretFrame, hshape, if_true]
  rw [hu, framePayload_frame, frameChecksum_frame, hm, andThen_next, ← checksumResult_runChecksum p s]
  simp [checksumResult, withNeed, startOutput]

end Sys2Proof.Machine

/-! ## The obligations of the Unescaper, settled -/

namespace Sys2Proof.Proofs

open Sys2Proof.Machine

/-- Settles O21: the scan undoes each step of the Escaper, and two fixed buffers show that the converse fails. -/
theorem unescapeUndoesEscape : Obligations.UnescapeUndoesEscape :=
  ⟨unescape_escape, by decide, by decide⟩

/-- Settles O6, end by end: UNESCAPE has its output, DECODE finds a frame in UBUF or none, and a lone marker is
malformed. -/
theorem scanEndsOrIsMalformed : Obligations.ScanEndsOrIsMalformed := by
  intro s hp
  refine ⟨fun hr hop => ?_, fun hr hop => ⟨fun p lo hi hu hf => ?_, fun hno => ?_⟩, fun hr => ?_⟩
  · rw [step_scan_end hp hr, endScan_unescape hop]; rfl
  · obtain ⟨m, hm, hread⟩ := interpretFrame_frame (last := conclude) hu hf
    refine ⟨_, by rw [step_scan_end hp hr, endScan_decode hop, hm]; rfl, ?_⟩
    refine ⟨congrArg Phase.respond (code_statusOfVerified _ _), rfl, rfl, hread, ?_, ?_⟩
    · constructor <;> simp
    · simp
  · have hshape : frameShaped s.ubuf.values = false :=
      Bool.eq_false_iff.2 fun h => by
        obtain ⟨p, lo, hi, hu⟩ := frameShaped_iff.1 h
        exact hno p lo hi hu
    rw [step_scan_end hp hr, endScan_decode hop, interpretFrame_malformed hshape]; rfl
  · rw [step_scan_truncated hp hr]; rfl

/-- Settles O22: where there is a parse the output is its values, and where there is none the scan fails. -/
theorem unescapeEmitsSymbolValues : Obligations.UnescapeEmitsSymbolValues := by
  intro bs
  rw [unescape_eq_parseWire]
  refine ⟨fun syms h => ?_, fun e h => ?_⟩
  · rw [h]; rfl
  · rw [h]; rfl

/-- Settles O23: a lone marker at the end is the one way a scan fails. -/
theorem malformedExactlyWhenLoneMarkerIsLast : Obligations.MalformedExactlyWhenLoneMarkerIsLast :=
  ⟨fun _ => unescape_eq_none_iff, by decide⟩

/-- Settles O24: the sizing pass steps as the scan does. -/
theorem sizingPassIsExact : Obligations.SizingPassIsExact := unescapeSize_eq

/-- Settles O25: a symbol is longer than its value by its active marker, and in an escaped buffer no marker is the
second byte of a pair. -/
theorem unescapeLengthLaw : Obligations.UnescapeLengthLaw :=
  ⟨fun _ _ => length_add_activeMarkers, activeMarkers_escape, by decide⟩

/-- Settles O26: of active markers there are between none and one for each byte of the output. -/
theorem unescapeBounds : Obligations.UnescapeBounds := by
  intro bs out h
  have hlen := length_add_activeMarkers h
  have hle := activeMarkers_le_length h
  omega

/-- Settles O27: the flag is set exactly after an active marker, so it is set at the end exactly where the scan
fails. -/
theorem streamingFormIsEquivalent : Obligations.StreamingFormIsEquivalent := unescapeStream_eq

/-- Settles O28: a ready UNESCAPE completes with its response, which is MalformedFrame exactly where the scan fails. -/
theorem unescapeCompletes : Obligations.UnescapeCompletes := by
  refine ⟨fun s inp h => ⟨fun hw hop => ?_, ?_⟩, by decide⟩
  · exact step_of_decodeCmd h.idle hw (by rw [hop]; rfl)
  · obtain ⟨t, ht, hc⟩ := execUnescape_ready h
    refine ⟨t, ht, hc.same, fun out hu => ?_, fun hu => ?_, ?_⟩
    · simpa [unescapeResponse_of_some hu] using hc.delivers
    · simpa [unescapeResponse_of_none hu] using hc.delivers
    · rw [hc.delivers.status, unescapeResponse_code_iff, unescape_eq_none_iff]; rfl

/-- Settles O39: a symbol writes one byte of its sink, at the write index, and moves the cursor. -/
theorem symbolFrame : Obligations.SymbolFrame := by
  intro i s t hi h
  refine ⟨exec_sameCommand h, ?_⟩
  obtain ⟨b, n, rfl⟩ := exec_wire_next hi h
  by_cases hop : s.op = 1
  · rw [sinkOf_of_op_eq hop]
    exact ⟨rfl, rfl, rfl, rfl, rfl, rfl, rfl, fun _ => rfl, fun hne => absurd hop hne,
      fun a ha => ⟨rfl, Memory.read_write_other _ _ _ _ ha⟩⟩
  · rw [sinkOf_of_op_ne hop]
    exact ⟨rfl, rfl, rfl, rfl, rfl, rfl, rfl, fun heq => absurd heq hop, fun _ => rfl,
      fun a ha => ⟨Memory.read_write_other _ _ _ _ ha, rfl⟩⟩

/-- Settles O37: the scan's sink is OBUF. -/
theorem unescapeScanConsumesSymbol : Obligations.UnescapeScanConsumesSymbol := by
  intro s hp hop hw
  have hk := sinkOf_of_op_ne hop
  exact ⟨exec_symbol_scan rfl hk hp hw, fun _ => exec_symbol_scan rfl hk hp hw,
    fun _ => exec_symbol_scan rfl hk hp hw⟩

/-- Settles O38: the scan's sink is UBUF. -/
theorem decodeScanConsumesSymbol : Obligations.DecodeScanConsumesSymbol := by
  intro s hp hop hw
  have hk := sinkOf_of_op_eq hop
  exact ⟨exec_symbol_scan rfl hk hp hw, fun _ => exec_symbol_scan rfl hk hp hw,
    fun _ => exec_symbol_scan rfl hk hp hw⟩

end Sys2Proof.Proofs

/-! ## The Frame Codec

A frame unescapes to a boundary marker, the Checksummed Payload and a boundary marker, however its first marker is
written (`unescape_framed`), and `decodeFrame` accepts exactly the buffers that unescape to this shape
(`decodeFrame_eq_some_iff`). On the machine ENCODE and DECODE complete with these functions' results
(`execEncode_ready`, `execDecode_ready`), and a command that the host presents and starts completes
(`present_start_completes`). -/

namespace Sys2Proof.Machine

/-! ### The frame of a payload (R156, R157, R158) -/

theorem checksummed_eq (p : List Byte) : checksummed p = p ++ [low (crc16 p), high (crc16 p)] := rfl

theorem length_checksummed (p : List Byte) : (checksummed p).length = p.length + 2 := by simp [checksummed_eq]

theorem length_encodeFrame_eq (p : List Byte) :
    (encodeFrame p).length = p.length + 4 + reservedCount (checksummed p) := by
  rw [length_encodeFrame, escapeSize, length_checksummed]
  omega

/-- R156, R164: escaped Checksummed Payload between markers, where `marker` stands for the first one: the byte itself
or an escaped pair. -/
theorem unescape_framed {marker : List Byte} (h : unescape marker = some [BOUNDARY]) (p : List Byte) :
    unescape (marker ++ escape (checksummed p) ++ [BOUNDARY]) =
      some ([BOUNDARY] ++ p ++ [low (crc16 p), high (crc16 p)] ++ [BOUNDARY]) := by
  have hlast : unescape [BOUNDARY] = some [BOUNDARY] := by decide
  rw [List.append_assoc, unescape_append h, unescape_append (unescape_escape _), hlast, checksummed_eq]
  simp

/-! ### What `decodeFrame` accepts (R164, R165) -/

theorem decodeFrame_eq_some_iff {f p : List Byte} {verified : Bool} :
    decodeFrame f = some (p, verified) ↔
      ∃ lo hi, unescape f = some ([BOUNDARY] ++ p ++ [lo, hi] ++ [BOUNDARY]) ∧
        verified = (crc16 p == word16 lo hi) := by
  constructor
  · intro h
    rw [decodeFrame] at h
    cases hu : unescape f with
    | none => simp [hu] at h
    | some u =>
      cases hs : frameShaped u with
      | false => simp [hu, hs] at h
      | true =>
        obtain ⟨q, lo, hi, rfl⟩ := frameShaped_iff.1 hs
        simp only [hu, hs, if_true, framePayload_frame, frameChecksum_frame, Option.some.injEq, Prod.mk.injEq] at h
        obtain ⟨rfl, hv⟩ := h
        exact ⟨lo, hi, rfl, hv.symm⟩
  · rintro ⟨lo, hi, hu, rfl⟩
    have hs := frameShaped_iff.2 ⟨p, lo, hi, rfl⟩
    rw [decodeFrame, hu]
    simp only [hs, if_true, framePayload_frame, frameChecksum_frame]

/-- R165 (b), (c): the shape tests as bounds on the length and on the two ends. -/
theorem frameShaped_eq_false_iff {u : List Byte} :
    frameShaped u = false ↔ u.length < 4 ∨ u.head? ≠ some BOUNDARY ∨ u.getLast? ≠ some BOUNDARY := by
  rcases Nat.lt_or_ge u.length 4 with hlen | hlen
  · simp [frameShaped, MIN_FRAME, hlen, Nat.not_le.2 hlen]
  · have hfirst : 0 < u.length := by omega
    have hlast : u.length - 1 < u.length := by omega
    rw [List.head?_eq_getElem?, List.getLast?_eq_getElem?]
    simp [frameShaped, MIN_FRAME, hlen, Nat.not_lt.2 hlen, hfirst, hlast, imp_iff_not_or]

theorem decodeFrame_eq_none_iff {f : List Byte} :
    decodeFrame f = none ↔ unescape f = none ∨ ∃ u, unescape f = some u ∧ frameShaped u = false := by
  rw [decodeFrame]
  cases unescape f with
  | none => simp
  | some u => simp

/-- R167: a frame is accepted and verified, however its first marker is written. -/
theorem decodeFrame_framed {marker : List Byte} (h : unescape marker = some [BOUNDARY]) (p : List Byte) :
    decodeFrame (marker ++ escape (checksummed p) ++ [BOUNDARY]) = some (p, true) :=
  decodeFrame_eq_some_iff.2 ⟨_, _, unescape_framed h p, by rw [word16_low_high, beq_self_eq_true]⟩

/-- R170: `decode` undoes `encode`. -/
theorem decodeFrame_encodeFrame (p : List Byte) : decodeFrame (encodeFrame p) = some (p, true) :=
  decodeFrame_framed (by decide) p

theorem encodeFrame_injective : Function.Injective encodeFrame := fun p q h => by
  have hdecoded : some (p, true) = some (q, true) := by
    rw [← decodeFrame_encodeFrame p, h, decodeFrame_encodeFrame]
  exact congrArg Prod.fst (Option.some.inj hdecoded)

/-! ### ENCODE and DECODE complete (R160, R168) -/

theorem decodeResponse_of_some {inp p : List Byte} {verified : Bool} (h : decodeFrame inp = some (p, verified)) :
    decodeResponse inp = (statusOfVerified verified, p) := by
  simp [decodeResponse, h]

theorem decodeResponse_of_none {inp : List Byte} (h : decodeFrame inp = none) :
    decodeResponse inp = (.malformedFrame, []) := by
  simp [decodeResponse, h]

/-- R33: the verification-failed flag of a ChecksumMismatch. -/
theorem State.Delivers.verificationFailed {t : State} {out : List Byte} (h : t.Delivers .checksumMismatch out) :
    t.verificationFailed = true := by
  rw [State.verificationFailed, h.status]
  rfl

/-- R93, R181: a command that the host presents and starts completes with its response; CAP is as it was. -/
theorem present_start_completes {s : State} {op : BitVec 3} {i : Instr} {inp : List Byte} {r : Status × List Byte}
    (hp : s.phase = .idle) (hf : fits s.cfg inp.length = true) (hd : decodeCmd op = .ok i)
    (hr : commandResponse s.cfg inp i = some r) :
    ∃ u t, presentCommand op inp s = .next u ∧ start u = .next t ∧ t.Delivers r.1 r.2 ∧ t.cfg = s.cfg := by
  obtain ⟨u, hu, hready, hop, hw, hcfg, -⟩ := Proofs.presentedCommandIsReady s op inp hp hf
  obtain ⟨t, ht, hc⟩ := step_ready_completes hw (hop ▸ hd) hready (hcfg ▸ hr)
  exact ⟨u, t, hu, (whenIdle_of_idle hready.idle step).trans ht, hc.delivers, hc.same.cfg.trans hcfg⟩

end Sys2Proof.Machine

/-! ## The obligations of the Frame Codec, settled -/

namespace Sys2Proof.Proofs

open Sys2Proof.Machine

/-- Settles O36: the payload is no longer than its frame, so it can be presented, and the ENCODE that answers the frame
leaves a state from which the frame can be presented in turn. -/
theorem roundTripOnTheMachine : Obligations.RoundTripOnTheMachine := by
  refine ⟨decodeFrame_encodeFrame, fun s p hp hf => ?_⟩
  have hpayload : fits s.cfg p.length = true := fits_mono (by rw [length_encodeFrame_eq]; omega) hf
  obtain ⟨s₁, t, hs₁, ht, hframe, hcfg⟩ := present_start_completes (op := 0) (i := .encode) hp hpayload rfl
    (congrArg some (cappedResponse_of_fits hf))
  obtain ⟨u, v, hu, hv, hdecoded, -⟩ := present_start_completes (op := 1) (i := .decode) hframe.idle
    (by rw [hcfg]; exact hf) rfl (congrArg some (decodeResponse_of_some (decodeFrame_encodeFrame p)))
  exact ⟨s₁, t, u, v, hs₁, ht, hframe, hu, hv, hdecoded⟩

/-- Settles O29: the body is the escaped Checksummed Payload. -/
theorem encodedFrameIsWellFormed : Obligations.EncodedFrameIsWellFormed := fun p =>
  ⟨escape (checksummed p), rfl, fun _ hb => ne_of_mem_of_not_mem hb (boundary_notMem_escape _),
    fun _ => escape_after_marker, unescape_escape _, by rw [length_encodeFrame_eq]; omega⟩

/-- Settles O30: of the n + 2 bytes of the Checksummed Payload between none and all are reserved. -/
theorem encodedFrameLength : Obligations.EncodedFrameLength := by
  intro p
  have hlen := length_encodeFrame_eq p
  have hle := reservedCount_le_length (checksummed p)
  rw [length_checksummed] at hle
  exact ⟨hlen, by omega, by omega⟩

/-- Settles O31: writing the first marker as an escaped pair gives another buffer with the same payload, and the frame
of the payload [7E] is accepted with that byte left unescaped, too. -/
theorem encodeInjectiveDecodeNot : Obligations.EncodeInjectiveDecodeNot := by
  refine ⟨fun p q h => encodeFrame_injective h, fun p => ⟨decodeFrame_encodeFrame p, ?_⟩, ?_⟩
  · refine ⟨[ESC, BOUNDARY ^^^ MASK] ++ escape (checksummed p) ++ [BOUNDARY], fun h => ?_,
      decodeFrame_framed (by decide) p⟩
    have hfirst : ESC = BOUNDARY := (List.cons.inj h).1
    exact absurd hfirst (by decide)
  · exact ⟨[0x7E, 0x7E, 0x81, 0x6A, 0x7E], [0x7E], true, by decide, by decide⟩

/-- Settles O32: the shape tests pass on exactly these buffers. -/
theorem decodeAcceptsExactlyFrames : Obligations.DecodeAcceptsExactlyFrames := fun _ _ _ => decodeFrame_eq_some_iff

/-- Settles O33: beside the payload an accepted buffer has two markers and two checksum bytes. -/
theorem decodedPayloadLength : Obligations.DecodedPayloadLength := by
  intro f p verified h
  obtain ⟨lo, hi, hu, -⟩ := decodeFrame_eq_some_iff.1 h
  exact ⟨_, hu, by simp, length_unescape_le hu⟩

/-- Settles O34: a ready ENCODE completes with its response, which the capacity for the frame decides. -/
theorem encodeCompletes : Obligations.EncodeCompletes := by
  refine ⟨fun s inp need h hneed => ⟨fun hw hop => ?_, ?_⟩, by decide, by decide, by decide⟩
  · exact step_of_decodeCmd h.idle hw (by rw [hop]; rfl)
  · obtain ⟨t, ht, hc⟩ := execEncode_ready h
    have hlen : (encodeFrame inp).length = need := by rw [hneed, length_encodeFrame_eq]; rfl
    rw [encodeResponse] at hc
    refine ⟨t, ht, hc.same, fun hf => ?_, fun hf => ?_⟩
    · rw [cappedResponse_of_fits (by rwa [hlen])] at hc
      exact ⟨hc.delivers, hc.delivers.olen.trans hlen⟩
    · rw [cappedResponse_of_not_fits (by rwa [hlen])] at hc
      exact hc.delivers

/-- Settles O35: a ready DECODE completes with its response, which is MalformedFrame exactly where the scan or a shape
test fails. -/
theorem decodeCompletes : Obligations.DecodeCompletes := by
  refine ⟨fun s inp h => ⟨fun hw hop => ?_, ?_⟩, fun inp => ?_, by decide⟩
  · exact step_of_decodeCmd h.idle hw (by rw [hop]; rfl)
  · obtain ⟨t, ht, hc⟩ := execDecode_ready h
    refine ⟨t, ht, hc.same, fun p hd => ?_, fun p hd => ?_, fun hd => ?_⟩
    · rw [decodeResponse_of_some hd] at hc
      exact hc.delivers
    · rw [decodeResponse_of_some hd] at hc
      exact ⟨hc.delivers, hc.delivers.verificationFailed⟩
    · rw [decodeResponse_of_none hd] at hc
      exact hc.delivers
  · simp_rw [decodeFrame_eq_none_iff, frameShaped_eq_false_iff]
    rfl

end Sys2Proof.Proofs

/-! ## Completion and the delivery of a result

An operation ends in one way: `finish` with its result. Inside an operation that takes time the result code alone makes
this last move (`exec_result_eq`), and what it delivers turns on whether the result carries output. -/

namespace Sys2Proof.Machine

/-- R85, R188: the operation that holds a result code ends with it. -/
theorem exec_result_eq {s : State} {c : BitVec 2} (hp : s.phase = .respond c) :
    exec (decodeRsp c) s = .next (finish (Status.ofCode c) s) :=
  (step_of_decode_rsp hp (decode_rsp_register c)).symm.trans (step_respond hp)

/-- R183, R184: a result with output delivers the bytes written below `wr`. -/
theorem exec_result_withOutput {s : State} {c : BitVec 2} (hp : s.phase = .respond c)
    (ho : (Status.ofCode c).hasOutput = true) :
    ∃ t, exec (decodeRsp c) s = .next t ∧ t.done = true ∧ t.status = c ∧ t.olen = s.wr ∧ t.phase = .idle ∧
      (∀ a, a < s.wr → t.obuf.read a = s.obuf.read a) ∧ SameCommand s t := by
  refine ⟨_, exec_result_eq hp, rfl, Status.code_ofCode c, by simp [ho], rfl, fun a ha => ?_, finish_sameCommand _ s⟩
  rw [finish_obuf, if_pos ho, Memory.read_keepBelow _ ha]

/-- R185, R186: a result without output delivers the empty sequence, whatever the operation has written. -/
theorem exec_result_withoutOutput {s : State} {c : BitVec 2} (hp : s.phase = .respond c)
    (ho : (Status.ofCode c).hasOutput = false) :
    ∃ t, exec (decodeRsp c) s = .next t ∧ t.Delivers (Status.ofCode c) [] ∧ SameCommand s t :=
  have hc : Completes s (finish (Status.ofCode c) s) (Status.ofCode c, []) := Completes.of_noOutput (.refl s) ho
  ⟨_, exec_result_eq hp, hc.delivers, hc.same⟩

end Sys2Proof.Machine

/-! ## The obligations of completion, settled -/

namespace Sys2Proof.Proofs

open Sys2Proof.Machine

/-- Settles O8: a START that answers a next state has completed its command there. -/
theorem operationIsOneTransition : Obligations.OperationIsOneTransition := by
  intro s t hp h
  obtain ⟨_, _, _, -, -, -, -, hc⟩ := step_idle_completes hp h
  exact ⟨hc.delivers.idle, hc.delivers.done⟩

/-- Settles O9: a code below 5 selects a command, a command has a response to every input, and a ready one completes
with it. -/
theorem everyOperationCompletes : Obligations.EveryOperationCompletes := by
  intro s inp h hw hop
  obtain ⟨i, hd⟩ := exists_decodeCmd hop
  obtain ⟨r, hr⟩ := exists_commandResponse (decodeCmd_format hd) s.cfg inp
  obtain ⟨t, ht, hc⟩ := step_ready_completes hw hd h hr
  exact ⟨t, r.1, r.2, ht, hc.delivers, hc.same⟩

/-- Settles O40: the codes 0 and 1 are those of the two results with output. -/
theorem resultWithOutputDelivered : Obligations.ResultWithOutputDelivered := fun _ =>
  ⟨fun hp => exec_result_withOutput hp rfl, fun hp => exec_result_withOutput hp rfl⟩

/-- Settles O41: the codes 2 and 3 are those of the two results without output. -/
theorem resultWithoutOutputDelivered : Obligations.ResultWithoutOutputDelivered := fun _ =>
  ⟨fun hp => exec_result_withoutOutput hp rfl, fun hp => exec_result_withoutOutput hp rfl⟩

end Sys2Proof.Proofs

/-! ## Reset, refusals and the host during an operation

A command is refused by reading its operand (`readInput_busy` and the lemmas after it), and a host access by
`whenIdle`. An implementation that takes time over a scan goes through the very output pass of the atomic operation
(`waits_scanPass`), and the step that delivers the result ends as the atomic operation does, since `finish` keeps
nothing of the phase (`finish_inPhase`). -/

namespace Sys2Proof.Machine

/-! ### Where a command is refused (R28, R213, R224) -/

theorem readInput_busy {s : State} (hp : s.phase ≠ .idle) : readInput s = .error .operationInProgress := by
  cases h : s.phase with
  | idle => exact absurd h hp
  | scan => simp [readInput, h]
  | respond c => simp [readInput, h]

theorem readInput_ilenUnwritten {s : State} (hp : s.phase = .idle) (hw : s.ilenWritten = false) :
    readInput s = .error .commandNotWritten := by
  simp [readInput, hp, hw]

theorem readInput_tooLong {s : State} (hp : s.phase = .idle) (hw : s.ilenWritten = true)
    (hf : fits s.cfg s.ilen = false) : readInput s = .error .inputTooLong := by
  simp [readInput, hp, hw, hf]

theorem readInput_byteUnwritten {s : State} (hp : s.phase = .idle) (hw : s.ilenWritten = true)
    (hf : fits s.cfg s.ilen = true) (hb : s.ibuf.bytes 0 s.ilen = none) :
    readInput s = .error .commandNotWritten := by
  simp [readInput, hp, hw, hf, hb]

theorem exec_command_refused {i : Instr} {s : State} {q : Refusal} (hi : i.format = .cmd)
    (h : readInput s = .error q) : exec i s = .refused q := by
  obtain ⟨body, hb⟩ := exec_command_eq_withInput hi s
  rw [hb, withInput, h]

theorem step_opUnwritten {s : State} (hp : s.phase = .idle) (hw : s.opWritten = false) :
    step s = .refused .commandNotWritten := by
  simp [step, fetch, hp, fetchCommand, hw]

/-! ### The host during an operation (R221, R224) -/

theorem whenIdle_of_busy {s : State} (hp : s.phase ≠ .idle) (body : State → Result) :
    whenIdle s body = .refused .operationInProgress :=
  if_neg hp

theorem readObuf_busy {s : State} (hp : s.phase ≠ .idle) (i : Nat) :
    readObuf i s = .refused .operationInProgress :=
  if_neg hp

/-! ### The capacity that is needed (R214) -/

/-- What is no shorter than something that does not fit, does not fit. -/
theorem not_fits_mono {c : Config} {m n : Nat} (h : m ≤ n) (hm : fits c m = false) : fits c n = false :=
  Bool.eq_false_iff.2 fun hn => Bool.eq_false_iff.1 hm (fits_mono h hn)

theorem code_of_unescapeResponse_ne (inp : List Byte) : (unescapeResponse inp).1.code ≠ 3 := by
  rcases unescapeResponse_status inp with h | h <;> rw [h] <;> decide

theorem code_of_decodeResponse_ne (inp : List Byte) : (decodeResponse inp).1.code ≠ 3 := by
  rcases decodeResponse_status inp with h | h | h <;> rw [h] <;> decide

/-! ### Waiting (R93, R225) -/

theorem wait_busy {s : State} (hp : s.phase ≠ .idle) : wait s = step s := if_neg hp

theorem waits_succ_of_step {s t : State} {k : Nat} (hp : s.phase ≠ .idle) (h : step s = .next t) :
    waits (k + 1) s = waits k t := by
  rw [waits, wait_busy hp, h, andThen_next]

theorem waits_succ_of_scan {s t : State} {k : Nat} (hp : s.phase = .scan) (h : step s = .next t) :
    waits (k + 1) s = waits k t :=
  waits_succ_of_step (by simp [hp]) h

theorem waits_trans {s t u : State} {m n : Nat} (h : waits m s = .next t) (h' : waits n t = .next u) :
    waits (m + n) s = .next u := by
  induction m generalizing s with
  | zero => cases h; rwa [Nat.zero_add]
  | succ m ih =>
    obtain ⟨v, hv, hvt⟩ := andThen_eq_next (show andThen (wait s) (waits m) = .next t from h)
    rw [Nat.add_right_comm, waits, hv, andThen_next, ih hvt]

/-! ### A scan in progress goes through the output pass (R141, R225) -/

/-- A symbol of `n` bytes consumed: the scan goes on, into the same space, at the rest of its input. -/
theorem consume_next {k : Sink} {b : Byte} {n : Nat} {bs : List Byte} {s u : State} (hp : s.phase = .scan)
    (hr : remaining s = some bs) (hn : n ≤ bs.length)
    (h : andThen (emit k b s) (fun s => .next (advance n s)) = .next u) :
    u.phase = .scan ∧ remaining u = some (bs.drop n) ∧ sinkOf u = sinkOf s := by
  obtain ⟨v, hv, hvu⟩ := andThen_eq_next h
  cases emit_next hv
  cases hvu
  have hl : bs.length = s.ilen - s.cur := Memory.bytes_length hr
  have hdrop : s.ibuf.bytes (s.cur + n) (s.ilen - (s.cur + n)) = some (bs.drop n) := by
    rw [Nat.sub_add_eq]; exact Memory.bytes_drop hr n (by omega)
  cases k <;> exact ⟨hp, hdrop, rfl⟩

/-- The moves of a scan in progress are those of the output pass over the rest of its input, one symbol a move. -/
theorem waits_scanPass {bs : List Byte} {s t : State} (hp : s.phase = .scan) (hr : remaining s = some bs)
    (h : scanPass (sinkOf s) (conclude .malformedFrame) endScan bs s = .next t) : ∃ k, waits k s = .next t := by
  induction bs using unescape.induct generalizing s with
  | case1 => exact ⟨1, (waits_succ_of_scan hp ((step_scan_end hp hr).trans h)).trans rfl⟩
  | case2 => exact ⟨1, (waits_succ_of_scan hp ((step_scan_truncated hp hr).trans h)).trans rfl⟩
  | case3 v rest ih =>
    rw [scanPass_cons_pair] at h
    obtain ⟨u, hu, hut⟩ := andThen_eq_next h
    obtain ⟨hpu, hru, hk⟩ := consume_next hp hr (by simp) hu
    obtain ⟨k, hkt⟩ := ih hpu hru (by rwa [hk])
    exact ⟨k + 1, (waits_succ_of_scan hp ((step_scan_pair hp hr).trans hu)).trans hkt⟩
  | case4 b rest hb ih =>
    rw [scanPass_cons_data hb] at h
    obtain ⟨u, hu, hut⟩ := andThen_eq_next h
    obtain ⟨hpu, hru, hk⟩ := consume_next hp hr (by simp) hu
    obtain ⟨k, hkt⟩ := ih hpu hru (by rwa [hk])
    exact ⟨k + 1, (waits_succ_of_scan hp ((step_scan_byte hp hr hb).trans hu)).trans hkt⟩

/-! ### The end of a scan, in time and at once (R147, R164, R225) -/

/-- R188: the end of an operation keeps nothing of the phase it was in. -/
@[simp] theorem finish_inPhase (st : Status) (p : Phase) (s : State) : finish st (inPhase p s) = finish st s := rfl

/-- The result code that an operation is about to deliver is one move. -/
theorem waits_conclude (st : Status) (s : State) :
    waits 1 (inPhase (.respond st.code) s) = complete st s := by
  have hstep : step (inPhase (.respond st.code) s) = .next (finish st s) := by
    rw [step_respond rfl, Status.ofCode_code, finish_inPhase]
  rw [waits_succ_of_step (by simp) hstep]; rfl

theorem payloadWritten_inPhase (bs : List Byte) (p : Phase) (s : State) :
    payloadWritten bs (inPhase p s) = inPhase p (payloadWritten bs s) := by
  simp only [payloadWritten, runChecksum_eq]; rfl

/-- R164: whether a frame is interpreted at once or by a move of its own, the result found is the same. -/
theorem interpretFrame_inPhase {s : State} (p : Phase) (hobuf : s.obuf = [])
    (hf : fits s.cfg s.ubuf.values.length = true) :
    ∃ st v, interpretFrame conclude (inPhase p s) = conclude st v ∧ interpretFrame complete s = complete st v := by
  cases hs : frameShaped s.ubuf.values with
  | false => exact ⟨_, _, interpretFrame_malformed hs, interpretFrame_malformed hs⟩
  | true =>
    have hp : fits s.cfg (framePayload s.ubuf.values).length = true := fits_mono (length_framePayload_le _) hf
    refine ⟨_, _, interpretFrame_shaped (s := inPhase p s) rfl hs hobuf hp, ?_⟩
    rw [interpretFrame_shaped rfl hs hobuf hp, payloadWritten_inPhase]
    rfl

theorem scanned_inPhase (k : Sink) (n : Nat) (bs : List Byte) (p : Phase) (s : State) :
    scanned k n bs (inPhase p s) = inPhase p (scanned k n bs s) := by
  cases k <;> rfl

/-- The state in which a scan started in `s`, which will emit `n` bytes, stands at its first symbol. -/
def scanStarted (n : Nat) (s : State) : State := startOutput (startScan (withNeed n (begin s)))

/-- The state at the end of the whole output pass of a scan started in `s`, which has emitted `out`. -/
def scanEnded (k : Sink) (inp out : List Byte) (s : State) : State :=
  scanned k inp.length out (scanStarted out.length s)

theorem execUnescape_scanEnded {s : State} {inp out : List Byte} (h : s.Ready inp) (hu : unescape inp = some out) :
    execUnescape s = complete .ok (scanEnded .obuf inp out s) := by
  rw [execUnescape, withInput_ready h, unescapeSize_eq, hu]
  exact scanPass_ready h hu .obuf _ _

theorem execDecode_scanEnded {s : State} {inp out : List Byte} (h : s.Ready inp) (hu : unescape inp = some out) :
    execDecode s = interpretFrame complete (scanEnded .ubuf inp out s) := by
  rw [execDecode, withInput_ready h, unescapeSize_eq, hu]
  exact scanPass_ready h hu .ubuf _ _

theorem step_decode {s : State} (hp : s.phase = .idle) (hw : s.opWritten = true) (hop : s.op = 1) :
    step s = execDecode s :=
  step_of_decodeCmd (i := .decode) hp hw (by rw [hop]; rfl)

theorem step_unescape {s : State} (hp : s.phase = .idle) (hw : s.opWritten = true) (hop : s.op = 3) :
    step s = execUnescape s :=
  step_of_decodeCmd (i := .unescape) hp hw (by rw [hop]; rfl)

/-- R142: both scanning operations find a malformed input in their sizing pass. -/
theorem step_malformed {s : State} {inp : List Byte} (h : s.Ready inp) (hw : s.opWritten = true)
    (hop : s.op = 1 ∨ s.op = 3) (hu : unescape inp = none) : step s = complete .malformedFrame (begin s) := by
  rcases hop with hop | hop
  · rw [step_decode h.idle hw hop, execDecode, withInput_ready h, unescapeSize_eq, hu]; rfl
  · rw [step_unescape h.idle hw hop, execUnescape, withInput_ready h, unescapeSize_eq, hu]; rfl

/-- The end of the scan in progress decides on the result that the atomic operation completes with. -/
theorem endScan_eq_step {s : State} {inp out : List Byte} (h : s.Ready inp) (hw : s.opWritten = true)
    (hop : s.op = 1 ∨ s.op = 3) (hu : unescape inp = some out) :
    ∃ st v, endScan (inPhase .scan (scanEnded (sinkOf s) inp out s)) = conclude st v ∧ step s = complete st v := by
  rcases hop with hop | hop
  · rw [step_decode h.idle hw hop, execDecode_scanEnded h hu, sinkOf_of_op_eq hop,
      endScan_decode (by simpa [scanEnded, scanStarted] using hop)]
    exact interpretFrame_inPhase _ (by simp [scanEnded, scanStarted])
      (by simpa [scanEnded, scanStarted] using h.fits_unescape hu)
  · have hne : s.op ≠ 1 := by rw [hop]; decide
    rw [step_unescape h.idle hw hop, execUnescape_scanEnded h hu, sinkOf_of_op_ne hne,
      endScan_unescape (by simpa [scanEnded, scanStarted] using hne)]
    exact ⟨_, _, rfl, rfl⟩

/-- R225: a scan in progress, started on an input that unescapes, comes to its end. -/
theorem waits_scan {s t : State} {inp out : List Byte} (h : s.Ready inp) (hu : unescape inp = some out)
    (ht : endScan (inPhase .scan (scanEnded (sinkOf s) inp out s)) = .next t) :
    ∃ k, waits k (inPhase .scan (scanStarted out.length s)) = .next t := by
  have hempty : (sinkMemory (sinkOf s) (inPhase .scan (scanStarted out.length s))).Exactly 0 := by
    cases sinkOf s <;> exact Memory.exactly_nil
  have hpass := scanPass_eq (sinkOf s) (conclude .malformedFrame) endScan inp out hempty hu
    (by simpa [scanStarted] using h.fits_unescape hu)
  rw [scanned_inPhase] at hpass
  exact waits_scanPass rfl (by simpa [remaining, scanStarted] using h.input) (hpass.trans ht)

theorem startTimed_scanning {s : State} (hp : s.phase = .idle) (hw : s.opWritten = true)
    (hop : s.op = 1 ∨ s.op = 3) : startTimed s = beginScan s := by
  rw [startTimed, whenIdle_of_idle hp, if_pos ⟨hw, hop⟩]

/-- R143: START of a scan finds a malformed input in the sizing pass. -/
theorem beginScan_malformed {s : State} {inp : List Byte} (h : s.Ready inp) (hu : unescape inp = none) :
    beginScan s = conclude .malformedFrame (begin s) := by
  rw [beginScan, withInput_ready h, unescapeSize_eq, hu]; rfl

theorem beginScan_scanning {s : State} {inp out : List Byte} (h : s.Ready inp) (hu : unescape inp = some out) :
    beginScan s = .next (inPhase .scan (scanStarted out.length s)) := by
  rw [beginScan, withInput_ready h, unescapeSize_eq, hu]; rfl

end Sys2Proof.Machine

/-! ## The obligations of reset and of the hazards, settled -/

namespace Sys2Proof.Proofs

open Sys2Proof.Machine

/-- Settles O48: the scan in progress goes through the output pass of the atomic operation, decides on the same result
at its end, and delivers it with one move more; a malformed input has its result before the first symbol. -/
theorem timedScanReachesTheAtomicResult : Obligations.TimedScanReachesTheAtomicResult := by
  intro s inp h hw hop
  rw [startTimed_scanning h.idle hw hop]
  cases hu : unescape inp with
  | none =>
    exact ⟨_, 1, _, beginScan_malformed h hu, rfl, by simp, waits_conclude _ _, rfl, step_malformed h hw hop hu⟩
  | some out =>
    obtain ⟨st, v, hend, hstep⟩ := endScan_eq_step h hw hop hu
    obtain ⟨k, hk⟩ := waits_scan h hu hend
    exact ⟨_, k + 1, _, beginScan_scanning h hu, rfl, by simp, waits_trans hk (waits_conclude st v), rfl, hstep⟩

/-- Settles O47: a frame has between n + 4 and 2n + 6 bytes and an escaped input at most 2n; a scan answers no
AllocationFailure. -/
theorem capacityNeeded : Obligations.CapacityNeeded := by
  intro s inp h
  obtain ⟨hframe, hframe_ge, hframe_le⟩ := encodedFrameLength inp
  rw [hframe] at hframe_ge hframe_le
  have hescape_le := reservedCount_le_length inp
  obtain ⟨-, encoded, hencode, -, hencoded, hnoFrame⟩ := encodeCompletes.1 s inp _ h rfl
  obtain ⟨-, escaped, hescape, -, hescaped, -⟩ := escapeCompletes.1 s inp h
  obtain ⟨-, summed, hchecksum, -, hsummed, -⟩ := checksumCompletes.1 s inp h
  refine ⟨fun hf => ⟨encoded, hencode, hnoFrame (not_fits_mono (by omega) hf)⟩,
    fun hf => ⟨encoded, hencode, (hencoded (fits_mono hframe_le hf)).1⟩,
    fun hf => ⟨escaped, hescape, hescaped (fits_mono (by omega) hf)⟩,
    fun hf => ⟨summed, _, hchecksum, hsummed hf⟩, ?_, ?_⟩
  · obtain ⟨t, ht, hc⟩ := execUnescape_ready h
    exact ⟨t, ht, by rw [hc.delivers.status]; exact code_of_unescapeResponse_ne inp⟩
  · obtain ⟨t, ht, hc⟩ := execDecode_ready h
    exact ⟨t, ht, by rw [hc.delivers.status]; exact code_of_decodeResponse_ne inp⟩

/-- Settles O10: every command row reads its operand first, and the fetch asks for OP before that. -/
theorem commandRefusals : Obligations.CommandRefusals := fun _ _ hi =>
  ⟨fun hp => exec_command_refused hi (readInput_busy hp),
    fun hp hw => exec_command_refused hi (readInput_ilenUnwritten hp hw),
    fun hp hw hf => exec_command_refused hi (readInput_tooLong hp hw hf),
    fun hp hw hf hb => exec_command_refused hi (readInput_byteUnwritten hp hw hf hb),
    step_opUnwritten⟩

/-- Settles O54: after reset OP is not written, and a START asks for it. -/
theorem resetLeavesNoResponse : Obligations.ResetLeavesNoResponse := fun _ =>
  ⟨_, rfl, rfl, rfl, rfl, rfl, rfl, rfl, rfl, rfl, (whenIdle_of_idle rfl step).trans (step_opUnwritten rfl rfl)⟩

/-- Settles O57: every one of these moves asks first whether an operation is in progress. -/
theorem hostMayNotInterfere : Obligations.HostMayNotInterfere := by
  intro s hp
  simp only [hostMove, writeOp, writeIlen, writeIbuf, start, startTimed, whenIdle_of_busy hp, readObuf_busy hp,
    implies_true, and_self]

end Sys2Proof.Proofs
